-- ==== Sys2Proof/Word.lean ====
section
/-! DEFINITION. The word type of the block: everything on a channel is a byte (spec 00_scope.md R10, 20_memory.md R53). -/

namespace Sys2Proof

/-- One byte; bit 0 is the least significant (R10). Framebuffer cells, command bytes and numeric parameters
(`PARAM_BITS = 8`, R8, R83) are bytes. -/
abbrev Byte := BitVec 8

end Sys2Proof
end

