-- ==== Sys2Proof/Syntax.lean ====
section
/-! DEFINITION. The closed command set (30_encoding.md R80), its parameter types (R84, R85) and the instruction type
`Instr`, one constructor per row of spec/opcode_table.json (15 command encodings, 10 host operations). -/

namespace Sys2Proof

/-- The colour of a pixel event (R140): `on` is 1, `off` is 0. -/
inductive Color where
  | on
  | off
deriving DecidableEq, Repr

/-- The four modes of `Some(mode)` (R85, R124); the fifth mode of the source, `disabled`, is `None` (R90). -/
inductive IndicatorMode where
  | off
  | blinkSlow
  | blinkFast
  | on
deriving DecidableEq, Repr

/-- The booster ratios (R85, R125). -/
inductive BoosterRatio where
  | stepUp2x3x4x
  | stepUp5x
  | stepUp6x
deriving DecidableEq, Repr

/-- The opaque token by which the host and the block pass the transport on (R93, R161, R162). -/
abbrev Handle := BitVec 8

/-- A Command: one of the 14 variants of R80. Numeric parameters are 8 bits wide whatever the width of the field
that is kept (R83, R110). -/
inductive Command where
  | displayOnOff (on : Bool)
  | setStartLine (addr : Byte)
  | setPage (addr : Byte)
  | setColumn (addr : Byte)
  | adcSelect (reverse : Bool)
  | setNormalReverse (reverse : Bool)
  | setAllPointsOn (on : Bool)
  | setLcdBias (biasMode1 : Bool)
  | setCommonOutputMode (reverse : Bool)
  | setPowerControl (booster regulator follower : Bool)
  | setVoltageRegulatorRatio (ratio : Byte)
  | setElectronicVolume (value : Byte)
  | setStaticIndicator (mode : Option IndicatorMode)
  | setBoosterRatio (ratio : BoosterRatio)
deriving DecidableEq, Repr

/-- One constructor per row of spec/opcode_table.json. The first fifteen are the encodings of the Command Codec (R82);
as instructions they ask the codec to encode that command (R110). The last ten are the host operations (R91). -/
inductive Instr where
  | displayOnOff (on : Bool)
  | setStartLine (addr : Byte)
  | setPage (addr : Byte)
  | setColumn (addr : Byte)
  | adcSelect (reverse : Bool)
  | setNormalReverse (reverse : Bool)
  | setAllPointsOn (on : Bool)
  | setLcdBias (biasMode1 : Bool)
  | setCommonOutputMode (reverse : Bool)
  | setPowerControl (booster regulator follower : Bool)
  | setVoltageRegulatorRatio (ratio : Byte)
  | setElectronicVolume (value : Byte)
  | setStaticIndicatorNone
  | setStaticIndicatorSome (mode : IndicatorMode)
  | setBoosterRatio (ratio : BoosterRatio)
  | sendCmd (cmd : Command)
  | setPixel (x y : Int) (color : Color)
  | flush
  | markAllDirty
  | detach
  | attach (handle : Handle)
  | getSize
  | enterRaw
  | enterGfx
  | resetInit
deriving DecidableEq, Repr

/-- The row of the encoding table that a Command takes: SetStaticIndicator has two (R80, R123, R124). -/
def Instr.ofCommand : Command → Instr
  | .displayOnOff on => .displayOnOff on
  | .setStartLine addr => .setStartLine addr
  | .setPage addr => .setPage addr
  | .setColumn addr => .setColumn addr
  | .adcSelect reverse => .adcSelect reverse
  | .setNormalReverse reverse => .setNormalReverse reverse
  | .setAllPointsOn on => .setAllPointsOn on
  | .setLcdBias biasMode1 => .setLcdBias biasMode1
  | .setCommonOutputMode reverse => .setCommonOutputMode reverse
  | .setPowerControl b r f => .setPowerControl b r f
  | .setVoltageRegulatorRatio ratio => .setVoltageRegulatorRatio ratio
  | .setElectronicVolume value => .setElectronicVolume value
  | .setStaticIndicator none => .setStaticIndicatorNone
  | .setStaticIndicator (some mode) => .setStaticIndicatorSome mode
  | .setBoosterRatio ratio => .setBoosterRatio ratio

end Sys2Proof
end

