-- ==== Sys2Proof/WellFormed.lean ====
section
/-! DEFINITION. Which instructions have a form on the request port that carries every operand whole. A command row read
from its own bytes has parameters that fit the kept field (30_encoding.md R82, R83); the coordinates of SET_PIXEL fit the
COORD_BITS of the port (R8, R93). Executing an instruction never asks for well-formedness. -/

namespace Sys2Proof

/-- The width of a coordinate on the request port: the open parameter COORD_BITS, at least 9 (R8). DESIGN CHOICE,
notes/assumptions/2.md. -/
abbrev coordBits : Nat := 16

/-- The parameter fits a field of w bits, so that the codec's mask drops nothing (R83). -/
def fits (w : Nat) (p : Byte) : Bool := decide (p.toNat < 2 ^ w)

/-- The coordinate is a two's complement number of COORD_BITS bits (R93). -/
def coordFits (x : Int) : Bool := decide (-(2 ^ 15) ≤ x) && decide (x < 2 ^ 15)

/-- The checks of an instruction. -/
def Instr.wf : Instr → Bool
  | .displayOnOff _ => true
  | .setStartLine addr => fits 6 addr
  | .setPage addr => fits 4 addr
  | .setColumn _ => true
  | .adcSelect _ => true
  | .setNormalReverse _ => true
  | .setAllPointsOn _ => true
  | .setLcdBias _ => true
  | .setCommonOutputMode _ => true
  | .setPowerControl _ _ _ => true
  | .setVoltageRegulatorRatio ratio => fits 3 ratio
  | .setElectronicVolume value => fits 6 value
  | .setStaticIndicatorNone => true
  | .setStaticIndicatorSome _ => true
  | .setBoosterRatio _ => true
  | .sendCmd _ => true
  | .setPixel x y _ => coordFits x && coordFits y
  | .flush => true
  | .markAllDirty => true
  | .detach => true
  | .attach _ => true
  | .getSize => true
  | .enterRaw => true
  | .enterGfx => true
  | .resetInit => true

end Sys2Proof
end

