-- ==== Sys2Proof/Decode.lean ====
section
/-! DEFINITION. The Command Codec (40_command_codec.md R110 to R125), the decoder of requests (total, rejecting by name),
and the encoder. A request is a list of bytes: a first byte below 0x10 is a selector OPSEL (R91) followed by its operands,
any other first byte begins the bytes of a command row (R82, R86). How operands are laid out after the selector is this
model's choice (R93 leaves it open): notes/assumptions/2.md. -/

namespace Sys2Proof

/-! ### The codec -/

/-- `bit(b)` of R11. -/
def bitOf (b : Bool) : Byte := if b then 1 else 0

/-- The low w bits of a parameter: `p & (2^w - 1)` (R83). -/
def keepBits (w : Nat) (p : Byte) : Byte := p &&& BitVec.ofNat 8 (2 ^ w - 1)

/-- The code of a static indicator mode (R85). -/
def indicatorCode : IndicatorMode → Byte
  | .off => 0
  | .blinkSlow => 1
  | .blinkFast => 2
  | .on => 3

/-- The code of a booster ratio: 6x is 0b11, and 0b10 stands for none (R85). -/
def boosterCode : BoosterRatio → Byte
  | .stepUp2x3x4x => 0
  | .stepUp5x => 1
  | .stepUp6x => 3

/-- `encode` of the Command Codec: pure, total, the byte list of R111 to R125, the first byte sent first. -/
def encodeCommand : Command → List Byte
  | .displayOnOff on => [0xAE ||| bitOf on]
  | .setStartLine addr => [0x40 ||| keepBits 6 addr]
  | .setPage addr => [0xB0 ||| keepBits 4 addr]
  | .setColumn addr => [0x10 ||| (addr >>> 4), 0x00 ||| keepBits 4 addr]
  | .adcSelect reverse => [0xA0 ||| bitOf reverse]
  | .setNormalReverse reverse => [0xA6 ||| bitOf reverse]
  | .setAllPointsOn on => [0xA4 ||| bitOf on]
  | .setLcdBias biasMode1 => [0xA2 ||| bitOf biasMode1]
  | .setCommonOutputMode reverse => [0xC0 ||| (bitOf reverse <<< 3)]
  | .setPowerControl b r f => [0x28 ||| (bitOf b <<< 2) ||| (bitOf r <<< 1) ||| bitOf f]
  | .setVoltageRegulatorRatio ratio => [0x20 ||| keepBits 3 ratio]
  | .setElectronicVolume value => [0x81, keepBits 6 value]
  | .setStaticIndicator none => [0xAC]
  | .setStaticIndicator (some mode) => [0xAD, indicatorCode mode]
  | .setBoosterRatio ratio => [0xF8, boosterCode ratio]

/-! ### Decoding a request -/

/-- Why a request names no instruction. `reservedOp` is the refusal of R92; the others are requests that R80 and R93 give
no host a way to make (the operand is a typed value there): the step faults on them. -/
inductive Reject where
  /-- no byte at all -/
  | emptyRequest
  /-- OPSEL is 0x0 or 0xB to 0xF (R92) -/
  | reservedOp (opsel : Byte)
  /-- a byte that begins no command (R88) -/
  | noCommand (first : Byte)
  /-- a second byte or an operand outside its values (R87; notes/assumptions/2.md) -/
  | badOperand (value : Byte)
  /-- the request ends before its last operand -/
  | cutShort
deriving DecidableEq, Repr

/-- What the decoder answers: an instruction and the bytes after it, or a rejection. -/
abbrev Decoded := Except Reject (Instr × List Byte)

/-- The mode of a static indicator code (R85). -/
def indicatorOf (a : Byte) : Option IndicatorMode :=
  if a = 0 then some .off
  else if a = 1 then some .blinkSlow
  else if a = 2 then some .blinkFast
  else if a = 3 then some .on
  else none

/-- The booster ratio of a code; 0b10 has none (R85). -/
def boosterOf (a : Byte) : Option BoosterRatio :=
  if a = 0 then some .stepUp2x3x4x
  else if a = 1 then some .stepUp5x
  else if a = 3 then some .stepUp6x
  else none

/-- A Boolean operand byte: 0 or 1. -/
def boolOf (a : Byte) : Option Bool :=
  if a = 0 then some false else if a = 1 then some true else none

/-- One more byte, which must have a meaning. -/
def decodeArgument (meaning : Byte → Option Instr) : List Byte → Decoded
  | [] => .error .cutShort
  | a :: rest =>
    match meaning a with
    | some i => .ok (i, rest)
    | none => .error (.badOperand a)

/-- A command row from its bytes, by its first byte (the map of R86, the second bytes of R87). -/
def decodeCommandRow (b : Byte) (rest : List Byte) : Decoded :=
  if b &&& 0xFE = 0xAE then .ok (.displayOnOff (b.getLsbD 0), rest)
  else if b &&& 0xC0 = 0x40 then .ok (.setStartLine (keepBits 6 b), rest)
  else if b &&& 0xF0 = 0xB0 then .ok (.setPage (keepBits 4 b), rest)
  else if b &&& 0xF0 = 0x10 then
    decodeArgument (fun a => if a &&& 0xF0 = 0 then some (.setColumn ((b <<< 4) ||| a)) else none) rest
  else if b &&& 0xFE = 0xA0 then .ok (.adcSelect (b.getLsbD 0), rest)
  else if b &&& 0xFE = 0xA6 then .ok (.setNormalReverse (b.getLsbD 0), rest)
  else if b &&& 0xFE = 0xA4 then .ok (.setAllPointsOn (b.getLsbD 0), rest)
  else if b &&& 0xFE = 0xA2 then .ok (.setLcdBias (b.getLsbD 0), rest)
  else if b &&& 0xF7 = 0xC0 then .ok (.setCommonOutputMode (b.getLsbD 3), rest)
  else if b &&& 0xF8 = 0x28 then .ok (.setPowerControl (b.getLsbD 2) (b.getLsbD 1) (b.getLsbD 0), rest)
  else if b &&& 0xF8 = 0x20 then .ok (.setVoltageRegulatorRatio (keepBits 3 b), rest)
  else if b = 0x81 then
    decodeArgument (fun a => if a &&& 0xC0 = 0 then some (.setElectronicVolume a) else none) rest
  else if b = 0xAC then .ok (.setStaticIndicatorNone, rest)
  else if b = 0xAD then decodeArgument (fun a => (indicatorOf a).map .setStaticIndicatorSome) rest
  else if b = 0xF8 then decodeArgument (fun a => (boosterOf a).map .setBoosterRatio) rest
  else .error (.noCommand b)

/-- The Command operand of SEND_CMD: a tag (the variant's place in R80, from 0) and one parameter byte. A numeric
parameter is carried whole, all 8 bits (R83). notes/assumptions/2.md. -/
def commandOf (tag param : Byte) : Option Command :=
  if tag = 0 then (boolOf param).map .displayOnOff
  else if tag = 1 then some (.setStartLine param)
  else if tag = 2 then some (.setPage param)
  else if tag = 3 then some (.setColumn param)
  else if tag = 4 then (boolOf param).map .adcSelect
  else if tag = 5 then (boolOf param).map .setNormalReverse
  else if tag = 6 then (boolOf param).map .setAllPointsOn
  else if tag = 7 then (boolOf param).map .setLcdBias
  else if tag = 8 then (boolOf param).map .setCommonOutputMode
  else if tag = 9 then
    if param &&& 0xF8 = 0 then some (.setPowerControl (param.getLsbD 2) (param.getLsbD 1) (param.getLsbD 0)) else none
  else if tag = 10 then some (.setVoltageRegulatorRatio param)
  else if tag = 11 then some (.setElectronicVolume param)
  else if tag = 12 then
    if param = 0 then some (.setStaticIndicator none)
    else (indicatorOf (param - 1)).map fun m => .setStaticIndicator (some m)
  else if tag = 13 then (boosterOf param).map .setBoosterRatio
  else none

/-- The tag byte of a Command operand. -/
def commandTag : Command → Byte
  | .displayOnOff _ => 0
  | .setStartLine _ => 1
  | .setPage _ => 2
  | .setColumn _ => 3
  | .adcSelect _ => 4
  | .setNormalReverse _ => 5
  | .setAllPointsOn _ => 6
  | .setLcdBias _ => 7
  | .setCommonOutputMode _ => 8
  | .setPowerControl _ _ _ => 9
  | .setVoltageRegulatorRatio _ => 10
  | .setElectronicVolume _ => 11
  | .setStaticIndicator _ => 12
  | .setBoosterRatio _ => 13

/-- The parameter byte of a Command operand. -/
def commandParam : Command → Byte
  | .displayOnOff on => bitOf on
  | .setStartLine addr => addr
  | .setPage addr => addr
  | .setColumn addr => addr
  | .adcSelect reverse => bitOf reverse
  | .setNormalReverse reverse => bitOf reverse
  | .setAllPointsOn on => bitOf on
  | .setLcdBias biasMode1 => bitOf biasMode1
  | .setCommonOutputMode reverse => bitOf reverse
  | .setPowerControl b r f => (bitOf b <<< 2) ||| (bitOf r <<< 1) ||| bitOf f
  | .setVoltageRegulatorRatio ratio => ratio
  | .setElectronicVolume value => value
  | .setStaticIndicator none => 0
  | .setStaticIndicator (some mode) => indicatorCode mode + 1
  | .setBoosterRatio ratio => boosterCode ratio

/-- A coordinate as two bytes of the port, the more significant first (notes/assumptions/2.md). -/
def coordBytes (x : Int) : List Byte :=
  let v := BitVec.ofInt coordBits x
  [v.extractLsb' 8 8, v.extractLsb' 0 8]

/-- `sext` of R11: the two bytes read as a mathematical integer. -/
def coordOf (hi lo : Byte) : Int := (hi ++ lo : BitVec 16).toInt

/-- The colour operand: 1 is on, 0 is off (R91). -/
def colorOf (a : Byte) : Option Color :=
  if a = 1 then some .on else if a = 0 then some .off else none

/-- The colour as its bit. -/
def colorBit : Color → Byte
  | .on => 1
  | .off => 0

/-- The operands of SEND_CMD. -/
def decodeSendCmd : List Byte → Decoded
  | tag :: param :: rest =>
    match commandOf tag param with
    | some c => .ok (.sendCmd c, rest)
    | none => .error (.badOperand tag)
  | _ => .error .cutShort

/-- The operands of SET_PIXEL. -/
def decodeSetPixel : List Byte → Decoded
  | xh :: xl :: yh :: yl :: c :: rest =>
    match colorOf c with
    | some color => .ok (.setPixel (coordOf xh xl) (coordOf yh yl) color, rest)
    | none => .error (.badOperand c)
  | _ => .error .cutShort

/-- The operand of ATTACH. -/
def decodeAttach : List Byte → Decoded
  | h :: rest => .ok (.attach h, rest)
  | [] => .error .cutShort

/-- A host operation by its selector (R91); 0x0 and 0xB to 0xF are reserved (R92). -/
def decodeHostOp (opsel : Byte) (rest : List Byte) : Decoded :=
  if opsel = 0x1 then decodeSendCmd rest
  else if opsel = 0x2 then decodeSetPixel rest
  else if opsel = 0x3 then .ok (.flush, rest)
  else if opsel = 0x4 then .ok (.markAllDirty, rest)
  else if opsel = 0x5 then .ok (.detach, rest)
  else if opsel = 0x6 then decodeAttach rest
  else if opsel = 0x7 then .ok (.getSize, rest)
  else if opsel = 0x8 then .ok (.enterRaw, rest)
  else if opsel = 0x9 then .ok (.enterGfx, rest)
  else if opsel = 0xA then .ok (.resetInit, rest)
  else .error (.reservedOp opsel)

/-- The decoder of requests. The two halves of the table never meet: no command begins with a byte below 0x10 (R86) and
OPSEL has 4 bits (R91). -/
def decode : List Byte → Decoded
  | [] => .error .emptyRequest
  | b :: rest => if b.toNat < 16 then decodeHostOp b rest else decodeCommandRow b rest

/-! ### The encoder -/

/-- The bytes of an instruction on the request port: a command row as the codec's own bytes (R82), a host operation as
its selector (R91) and its operands. -/
def encode : Instr → List Byte
  | .displayOnOff on => encodeCommand (.displayOnOff on)
  | .setStartLine addr => encodeCommand (.setStartLine addr)
  | .setPage addr => encodeCommand (.setPage addr)
  | .setColumn addr => encodeCommand (.setColumn addr)
  | .adcSelect reverse => encodeCommand (.adcSelect reverse)
  | .setNormalReverse reverse => encodeCommand (.setNormalReverse reverse)
  | .setAllPointsOn on => encodeCommand (.setAllPointsOn on)
  | .setLcdBias biasMode1 => encodeCommand (.setLcdBias biasMode1)
  | .setCommonOutputMode reverse => encodeCommand (.setCommonOutputMode reverse)
  | .setPowerControl b r f => encodeCommand (.setPowerControl b r f)
  | .setVoltageRegulatorRatio ratio => encodeCommand (.setVoltageRegulatorRatio ratio)
  | .setElectronicVolume value => encodeCommand (.setElectronicVolume value)
  | .setStaticIndicatorNone => encodeCommand (.setStaticIndicator none)
  | .setStaticIndicatorSome mode => encodeCommand (.setStaticIndicator (some mode))
  | .setBoosterRatio ratio => encodeCommand (.setBoosterRatio ratio)
  | .sendCmd cmd => [0x1, commandTag cmd, commandParam cmd]
  | .setPixel x y color => 0x2 :: (coordBytes x ++ coordBytes y ++ [colorBit color])
  | .flush => [0x3]
  | .markAllDirty => [0x4]
  | .detach => [0x5]
  | .attach handle => [0x6, handle]
  | .getSize => [0x7]
  | .enterRaw => [0x8]
  | .enterGfx => [0x9]
  | .resetInit => [0xA]

/-! ### Words of the opcode table -/

/-- The longest request of the port, SET_PIXEL: a selector and five operand bytes. -/
def maxRequestBytes : Nat := 6

/-- A word of the opcode table as bytes, first byte first. The table numbers a row's bits in one number whose most
significant byte is byte 0, the byte sent first (its match for SetElectronicVolume is 0x8100, prefix 0x81 first).
Operand bytes that the table gives no bits are zeros (notes/assumptions/10.md). -/
def tableBytes (nbits w : Nat) : List Byte :=
  let n := (nbits + 7) / 8
  (List.range n).map (fun k => BitVec.ofNat 8 (w >>> (8 * (n - 1 - k)))) ++ List.replicate (maxRequestBytes - n) 0

/-- The instruction the decoder reads from a word of the opcode table. -/
def decodeTableWord (nbits w : Nat) : Option Instr :=
  match decode (tableBytes nbits w) with
  | .ok (i, _) => some i
  | .error _ => none

end Sys2Proof
end

