-- ==== Sys2Proof/Config.lean ====
section
/-! DEFINITION. The configuration record (10_state.md R25), what makes it valid (00_scope.md R9), and the values the spec
leaves open: the transport's and the reset line's answers, INIT_SEQUENCE, and what the sink's registers hold where the spec
says `any value`. -/

namespace Sys2Proof

/-- The transport's own error value: opaque to the block, forwarded unchanged (R180, R191). A number stands for it
(DESIGN CHOICE, notes/assumptions/5.md); nothing computes with it. -/
abbrev TransportError := Nat

/-- The error value of the reset line's collaborator, opaque as well (R180, R182; notes/assumptions/5.md). -/
abbrev GpioError := Nat

/-- What the transport answers to one transaction, and what of it reached the sink. `err t n` is `Err(t)` when the sink
received the first `n` bytes (all, if there are fewer): R67 admits every prefix. The block sees `t` only. -/
inductive TxAnswer where
  | ok
  | err (t : TransportError) (received : Nat)
deriving DecidableEq, Repr, Inhabited

/-- What the reset line and delay provider answer to the pin phase of one RESET_INIT (R167, R182). -/
inductive PinAnswer where
  | ok
  | err (g : GpioError)
deriving DecidableEq, Repr, Inhabited

/-- The configuration record CFG, the source's DisplaySpecs: exactly the fields of R25. -/
structure DisplaySpecs where
  width : Nat
  height : Nat
  pages : Nat
  flipRows : Bool
  flipColumns : Bool
  inverted : Bool
  biasMode1 : Bool
  boosterEnabled : Bool
  regulatorEnabled : Bool
  followerEnabled : Bool
  regulatorRatio : BitVec 3
  electronicVolume : BitVec 6
  boosterRatio : BoosterRatio
  columnOffset : Nat
deriving DecidableEq, Repr

/-- R9: the configurations for which a block can be constructed. (`COLUMN_OFFSET >= 0` holds of every Nat.) -/
abbrev DisplaySpecs.valid (cfg : DisplaySpecs) : Prop :=
  1 ≤ cfg.width ∧ 1 ≤ cfg.height ∧ cfg.pages = (cfg.height + 7) / 8 ∧ cfg.pages ≤ 16 ∧
    cfg.columnOffset + cfg.width ≤ 256

/-- The configuration of State.reset. The spec gives none (it is supplied at construction, R25, R36): a made-up one, the
size of the test vectors of 95_test_vectors.md 2.5. DESIGN CHOICE, unsafe, notes/assumptions/3.md. -/
def Config.resetSpecs : DisplaySpecs where
  width := 128
  height := 64
  pages := 8
  flipRows := false
  flipColumns := false
  inverted := false
  biasMode1 := false
  boosterEnabled := false
  regulatorEnabled := false
  followerEnabled := false
  regulatorRatio := 0
  electronicVolume := 0
  boosterRatio := .stepUp2x3x4x
  columnOffset := 0

/-- The open parameter INIT_SEQUENCE: from the configuration to a finite list of Commands (R8, R167; decision D19;
notes/assumptions/14.md). -/
opaque Config.initSequence : DisplaySpecs → List Command

/-- The transport's answer to the n-th transaction when the state schedules none: an input that the model does not
choose (R7 (c), R64, R67). Free value, notes/assumptions/4.md. -/
opaque Config.freeAnswer : Nat → TxAnswer

/-- The answer of the pin phase of the n-th RESET_INIT when the state schedules none (R182). Free value,
notes/assumptions/4.md. -/
opaque Config.freePin : Nat → PinAnswer

/-! ### The sink's registers -/

/-- Where the reader of the command channel stands (30_encoding.md R87, 70_reset_and_hazards.md R209): at a command's first
byte, or inside the two-byte command that `first` began. -/
inductive Machine.SinkReader where
  | boundary
  | argument (first : Byte)
deriving DecidableEq, Repr, Inhabited

/-- The control registers of the sink that 10_state.md R29 lists, but for the page and column addresses, which stand in
Machine.Sink. The block cannot read them. -/
structure Machine.SinkRegs where
  displayOn : Bool
  startLine : BitVec 6
  adcReverse : Bool
  displayReverse : Bool
  allPointsOn : Bool
  bias1 : Bool
  commonReverse : Bool
  /-- booster, regulator, follower: bits 2, 1, 0 -/
  power : BitVec 3
  ratio : BitVec 3
  volume : BitVec 6
  indicatorOn : Bool
  indicatorMode : BitVec 2
  booster : BitVec 2
deriving DecidableEq, Repr, Inhabited

/-- What the sink's page register holds where the spec says `any value` (R35, U2). Free value, notes/assumptions/16.md. -/
opaque Config.freePage : Nat → BitVec 4

/-- The same of the column register (R35, U2; and past the last column, R62). Free value, notes/assumptions/16.md. -/
opaque Config.freeColumn : Nat → Byte

/-- The same of the control registers (R29, R201, U2). Free value, notes/assumptions/16.md. -/
opaque Config.freeRegs : Nat → Machine.SinkRegs

/-- Where the reader stands after a two-byte command was cut short: any value (R209, U13). Free value,
notes/assumptions/16.md. -/
opaque Config.freeReader : Nat → Machine.SinkReader

end Sys2Proof
end

