-- ==== Sys2Proof/Machine/State.lean ====
section
/-! DEFINITION. The state of the machine as plain data: the five elements of 10_state.md R20, the observation (results and
trace, R13, R31), the ghost array SENT (R30), the reference sink (20_memory.md R62), and the inputs that the outside world
supplies (requests, foreign traffic, the answers of the transport and of the reset line). -/

namespace Sys2Proof.Machine

/-! ### The block's own state (R20) -/

/-- MODE (R24). -/
inductive Mode where
  | uninit
  | raw
  | gfx
deriving DecidableEq, Repr

/-- ATT: whether the block holds the transport handle (R26). -/
inductive Attach where
  | attached
  | detached
deriving DecidableEq, Repr

/-- The dirty range of a page: `Clean` or `Dirty(start, end)`, start inclusive, end exclusive (R23). -/
inductive DirtyRange where
  | clean
  | dirty (start stop : Nat)
deriving DecidableEq, Repr

/-- Bytes by address, only some listed: a list in which addresses strictly rise. -/
abbrev Memory := List Host.Cell

/-! ### Results (R12, R180, R183) -/

/-- The return value of an operation that completed (R91); `bytes` is what the codec returns (R110). -/
inductive Value where
  | none
  | bytes (bs : List Byte)
  | size (width height : Nat)
  | handle (h : Handle)
deriving DecidableEq, Repr

/-- The two error kinds (R180). -/
inductive OpError where
  | communicationError (t : TransportError)
  | pinError (g : GpioError)
deriving DecidableEq, Repr

/-- The closed set of reasons for which an operation is refused (R183). -/
inductive RefuseReason where
  | wrongMode
  | notAttached
  | alreadyAttached
  | reservedOp
  | invalidConfig
deriving DecidableEq, Repr

/-- The result of an operation: exactly one of the three of R12. -/
inductive OpResult where
  | ok (v : Value)
  | err (e : OpError)
  | refused (r : RefuseReason)
deriving DecidableEq, Repr

/-! ### The transport trace (R31) -/

/-- The two channels of the transport (R50, R64). -/
inductive Channel where
  | command
  | data
deriving DecidableEq, Repr

/-- What the block is told of a transaction (R11, R64). -/
inductive TxOutcome where
  | ok
  | err (t : TransportError)
deriving DecidableEq, Repr

/-- One transaction of the trace T: `Cmd(bs, outcome)` or `Data(bs, outcome)` (R31). -/
structure TxEvent where
  channel : Channel
  bytes : List Byte
  outcome : TxOutcome
deriving DecidableEq, Repr

/-! ### The sink (R62) -/

/-- The reference sink of R62 with the control registers of R29. Every register holds a value, a free one where the spec says
`any value` (R30, R35; U2; notes/assumptions/16.md). A RAM cell that is not listed has an unspecified content (R30, R35;
U1). The column register SC is held as the two nibbles that the two bytes of SetColumn set. A RAM cell's address is
page * 256 + column (R50: a 4-bit page address and an 8-bit column address). -/
structure Sink where
  /-- SP (R62). -/
  page : BitVec 4
  /-- SC[7:4] (R62). -/
  colHi : BitVec 4
  /-- SC[3:0] (R62). -/
  colLo : BitVec 4
  /-- SRAM (R62). -/
  ram : Memory
  /-- The control registers (R29). -/
  regs : SinkRegs
  /-- Where the reader of the command channel stands (R209). -/
  reader : SinkReader
  /-- How many times free values were taken: the MODEL's index into them (notes/assumptions/16.md). -/
  draws : Nat
deriving DecidableEq, Repr

/-- The sink after construction (R35, R201): every register holds a free value, no RAM content is known, and the reader waits
for a command (notes/assumptions/7.md, notes/assumptions/16.md). -/
def Sink.unspecified : Sink where
  page := Config.freePage 0
  colHi := (Config.freeColumn 0).extractLsb' 4 4
  colLo := (Config.freeColumn 0).extractLsb' 0 4
  ram := []
  regs := Config.freeRegs 0
  reader := .boundary
  draws := 1

/-! ### Inputs (R7) -/

/-- What the outside world does next: the host puts a request on the port, or a foreign bus user sends bytes (R66). -/
inductive Input where
  | request (bytes : List Byte)
  | foreign (channel : Channel) (bytes : List Byte)
deriving DecidableEq, Repr

/-- The state of the machine. -/
structure State where
  /-- CFG (R25); no operation writes it. -/
  cfg : DisplaySpecs
  /-- FB (R21): cell (p, c) at address p * WIDTH + c; an address that is not listed holds 0x00, its reset value (R32);
  notes/assumptions/11.md. -/
  fb : Memory
  /-- DR (R23): one range per page, page 0 first. -/
  dr : List DirtyRange
  /-- MODE (R24). -/
  mode : Mode
  /-- ATT (R26). -/
  att : Attach
  /-- The token of the transport that the block holds or held last: what DETACH returns (R161) and ATTACH takes (R162);
  notes/assumptions/15.md. -/
  handle : Handle
  /-- The result of the operation that ended last (R12, R13); none before the first one;
  notes/assumptions/8.md. -/
  result : Option OpResult
  /-- T, oldest event first (R31); no operation reads it. -/
  trace : List TxEvent
  /-- The ghost array SENT (R30), addressed as fb is; an address that is not listed is Unknown. -/
  sent : Memory
  /-- The reference sink (R62); the block cannot read it. -/
  sink : Sink
  /-- What the outside world does, oldest first (R7, R58); notes/assumptions/9.md. -/
  inputs : List Input
  /-- The transport's next answers, the next one first; when it is empty the answer is a free value (R7 (c), R64);
  notes/assumptions/4.md. -/
  answers : List TxAnswer
  /-- The next answers of the reset line's pin phase; when it is empty the answer is a free value (R182). -/
  pins : List PinAnswer
  /-- How many transactions were answered: the MODEL's index into the free answers. -/
  txCount : Nat
  /-- How many pin phases were answered: the MODEL's index into the free pin answers. -/
  pinCount : Nat
deriving DecidableEq, Repr

/-- Why the machine stops with a fault. -/
inductive Fault where
  /-- Raised by step when the request on the port is neither a command row nor a selector with its operands: the spec
  gives a host no way to make one (the operand is a typed value, R80, R93), so it has no effect there. Safe: the machine
  stops where no hardware run goes. -/
  | malformedRequest
deriving DecidableEq, Repr

/-- Why the machine gives no meaning. -/
inductive Refusal where
  /-- Raised by exec for an instruction that has no meaning yet. Safe. No instruction is refused so in this model. -/
  | notModelled (mnemonic : String)
  /-- Raised by step in a state whose configuration is not valid: there is no such block, it admits no operation (R184).
  Safe. -/
  | invalidConfig
  /-- Raised by step when a foreign bus user sends while the block holds the transport: outside the specification (R207,
  93_implementation_defined.md U12, refuse). Safe. -/
  | busContention
deriving DecidableEq, Repr

/-- The state right after construction with a configuration (R200, R36). -/
def State.fresh (cfg : DisplaySpecs) : State where
  cfg := cfg
  fb := []
  dr := List.replicate cfg.pages (.dirty 0 cfg.width)
  mode := .uninit
  att := .attached
  handle := 0
  result := none
  trace := []
  sent := []
  sink := Sink.unspecified
  inputs := []
  answers := []
  pins := []
  txCount := 0
  pinCount := 0

/-- The machine right after reset, which is construction (R200), with the configuration of notes/assumptions/3.md. -/
def State.reset : State := State.fresh Config.resetSpecs

end Sys2Proof.Machine
end

