-- ==== Sys2Proof/Machine/Flags.lean ====
section
/-! DEFINITION. The dirty ranges, the only flags of the block (10_state.md R23, R28): how SET_PIXEL widens one, what
MARK_ALL_DIRTY writes, which range FLUSH sends. -/

namespace Sys2Proof.Machine

/-- The union with one column: `[x, x+1)` if the page was clean, else `start = min(start, x)`, `end = max(end, x+1)`
(R140). -/
def DirtyRange.include (x : Nat) : DirtyRange → DirtyRange
  | .clean => .dirty x (x + 1)
  | .dirty s e => .dirty (min s x) (max e (x + 1))

/-- The columns that FLUSH sends of a page, first and end: R143's guard `s < e and s < WIDTH`, and `e <= WIDTH`, without
which its MemRead is not defined (R11) and 93_implementation_defined.md U10 skips the page (notes/assumptions/6.md). -/
def DirtyRange.burst (width : Nat) : DirtyRange → Option (Nat × Nat)
  | .clean => none
  | .dirty s e => if s < e ∧ s < width ∧ e ≤ width then some (s, e) else none

/-- The full-width range (R33, R144). -/
def fullRange (cfg : DisplaySpecs) : DirtyRange := .dirty 0 cfg.width

/-- `DR[p]`. -/
def State.range (p : Nat) (s : State) : DirtyRange := s.dr.getD p .clean

/-- `DR[p] <- r`. -/
def State.setRange (p : Nat) (r : DirtyRange) (s : State) : State := { s with dr := s.dr.set p r }

/-- `for p in 0 .. PAGES-1: DR[p] <- Dirty(0, WIDTH)` (R144). -/
def State.setAllRanges (s : State) : State :=
  { s with dr := List.replicate s.cfg.pages (fullRange s.cfg) }

end Sys2Proof.Machine
end

