-- ==== Sys2Proof/Machine/Operands.lean ====
section
/-! DEFINITION. From operands to places: the bounds check and the address map of a pixel (20_memory.md R51, R56, R140),
the byte it paints, and the column address FLUSH sends (R57, R143). -/

namespace Sys2Proof.Machine

/-- The bounds check of SET_PIXEL, on mathematical integers, both bounds exclusive above (R140, R141 (a), (b)). -/
def inBounds (cfg : DisplaySpecs) (x y : Int) : Bool :=
  decide (0 ≤ x) && decide (x < cfg.width) && decide (0 ≤ y) && decide (y < cfg.height)

/-- `p = y div 8`, for a row that passed the check (R56). -/
def pageOf (y : Int) : Nat := y.toNat / 8

/-- `b = y mod 8`, for a row that passed the check (R56). -/
def rowBit (y : Int) : Nat := y.toNat % 8

/-- `c = x`, for a column that passed the check (R56). -/
def columnOf (x : Int) : Nat := x.toNat

/-- The framebuffer address of cell (p, c): the rows of PAGES * WIDTH bytes one after the other (R50, R51). -/
def cellAddr (cfg : DisplaySpecs) (p c : Nat) : Nat := p * cfg.width + c

/-- The byte with bit b set or cleared and its other bits as they are (R140). -/
def paint (b : Nat) (color : Color) (old : Byte) : Byte :=
  match color with
  | .on => old ||| ((1 : Byte) <<< b)
  | .off => old &&& ~~~((1 : Byte) <<< b)

/-- `(COLUMN_OFFSET + start) mod 256`: the one translation of an address, done by FLUSH (R57, R143). -/
def columnAddr (cfg : DisplaySpecs) (c : Nat) : Byte := BitVec.ofNat 8 (cfg.columnOffset + c)

/-- A page index as the parameter of SetPage (R143). -/
def pageAddr (p : Nat) : Byte := BitVec.ofNat 8 p

/-- The address of a RAM cell of the sink (R50, R62). -/
def sinkAddr (page : BitVec 4) (col : Byte) : Nat := page.toNat * 256 + col.toNat

end Sys2Proof.Machine
end

