-- ==== Sys2Proof/Machine/Ops.lean ====
section
/-! DEFINITION. The shared operations: memories, the framebuffer and SENT, the three ways an operation ends (taking an
error among them, 60_exceptions.md R186), the guards, the reference sink, the transport, sending commands, the page burst
and the flush loop, construction, and reading the next input. -/

namespace Sys2Proof.Machine

/-! ### Memories -/

/-- The byte listed at an address. -/
def Memory.lookup (a : Nat) : Memory → Option Byte
  | [] => none
  | (k, v) :: m => if k = a then some v else Memory.lookup a m

/-- List a byte at an address, in its place. -/
def Memory.put (a : Nat) (v : Byte) : Memory → Memory
  | [] => [(a, v)]
  | (k, u) :: m =>
    if a < k then (a, v) :: (k, u) :: m
    else if a = k then (a, v) :: m
    else (k, u) :: Memory.put a v m

/-- List no byte at an address. -/
def Memory.unlist (a : Nat) : Memory → Memory
  | [] => []
  | (k, u) :: m => if k = a then m else (k, u) :: Memory.unlist a m

/-- List consecutive bytes. -/
def Memory.putRun (a : Nat) : List Byte → Memory → Memory
  | [], m => m
  | b :: bs, m => Memory.putRun (a + 1) bs (Memory.put a b m)

/-- Addresses strictly rise. -/
def Memory.sorted : Memory → Bool
  | [] => true
  | [_] => true
  | (a, _) :: (b, v) :: m => decide (a < b) && Memory.sorted ((b, v) :: m)

/-- What an address of the framebuffer that is not listed reads as: the reset content (R32). -/
def unlistedByte : Byte := 0x00

/-- The canonical form of the framebuffer: addresses strictly rise and no entry equals what an unlisted address reads as. -/
def Memory.wf (m : Memory) : Bool := Memory.sorted m && m.all (fun cell => cell.2 != unlistedByte)

/-- Read one framebuffer byte. -/
def Memory.read (a : Nat) (m : Memory) : Byte := (Memory.lookup a m).getD unlistedByte

/-- Write one framebuffer byte, keeping the canonical form. -/
def Memory.write (a : Nat) (v : Byte) (m : Memory) : Memory :=
  if v = unlistedByte then Memory.unlist a m else Memory.put a v m

/-! ### The framebuffer and SENT -/

/-- `FB[p][c]` (R11). -/
def State.fbRead (p c : Nat) (s : State) : Byte := Memory.read (cellAddr s.cfg p c) s.fb

/-- `FB[p][c] <- v` (R11). -/
def State.fbWrite (p c : Nat) (v : Byte) (s : State) : State :=
  { s with fb := Memory.write (cellAddr s.cfg p c) v s.fb }

/-- `MemRead((p, c), n)`: n bytes of one page in ascending column order (R11, R53). -/
def State.fbRun (p c n : Nat) (s : State) : List Byte := (List.range n).map (fun k => s.fbRead p (c + k))

/-- The pixel at (x, y): bit `y mod 8` of `FB[y div 8][x]` (R21). -/
def State.pixel (x y : Nat) (s : State) : Bool := (s.fbRead (y / 8) x).getLsbD (y % 8)

/-- `SENT[p][c]`; none is Unknown (R30). -/
def State.sentAt (p c : Nat) (s : State) : Option Byte := Memory.lookup (cellAddr s.cfg p c) s.sent

/-- The bytes of a data transaction that answered Ok are what SENT holds of their cells (R30). -/
def State.noteSent (p c : Nat) (bs : List Byte) (s : State) : State :=
  { s with sent := Memory.putRun (cellAddr s.cfg p c) bs s.sent }

/-! ### How an operation ends (R12) -/

/-- `return Ok(v)`. -/
def State.complete (v : Value) (s : State) : State := { s with result := some (.ok v) }

/-- Taking an error, the block's "trap entry" (R186): the operation ends at once with `Err(e)`, the state written so far
stays written (R11), nothing is saved, no mode changes, control returns to the host. There is no handler and no return
from one (R189): the next request runs as it would after any other operation. -/
def State.raise (e : OpError) (s : State) : State := { s with result := some (.err e) }

/-- `refuse(reason)`: the operation ends at once, nothing was written and nothing emitted (R11, R183). The
host reads the reason in the result and goes on (notes/assumptions/8.md). -/
def State.refuse (r : RefuseReason) (s : State) : State := { s with result := some (.refused r) }

/-! ### Guards (R188, R190): the mode first, then the attach state -/

/-- Run k in the one mode that admits the operation. -/
def State.inMode (m : Mode) (k : State → State) (s : State) : State :=
  if s.mode = m then k s else s.refuse .wrongMode

/-- Run k if the block holds the transport. -/
def State.whenAttached (k : State → State) (s : State) : State :=
  if s.att = .attached then k s else s.refuse .notAttached

/-- Run k if the caller holds the transport. -/
def State.whenDetached (k : State → State) (s : State) : State :=
  if s.att = .detached then k s else s.refuse .alreadyAttached

/-! ### The reference sink (R29, R62) -/

/-- The column register SC (R62). -/
def Sink.column (k : Sink) : Byte := k.colHi ++ k.colLo

/-- `SC <- col`. -/
def Sink.setColumn (col : Byte) (k : Sink) : Sink :=
  { k with colHi := col.extractLsb' 4 4, colLo := col.extractLsb' 0 4 }

/-- The RAM's content is unspecified and the address pointers hold free values (U1, U2; notes/assumptions/16.md); the control
registers and the reader are untouched. The pointers take fresh values each time, so that a command other than SetPage and
SetColumn, sent twice, need not leave them as sent once: the remark of R189 (93_implementation_defined.md G2, which a model may drop) is kept for the
control registers only (DESIGN CHOICE, safe, notes/assumptions/7.md). -/
def Sink.forgetRam (k : Sink) : Sink :=
  { k with page := Config.freePage k.draws, ram := [], draws := k.draws + 1 }.setColumn (Config.freeColumn k.draws)

/-- The same, and the control registers hold free values too (R66, U1, U2; notes/assumptions/16.md). The spec is silent on the
reader here: it is left where it was, the model's choice (DEDUCED for foreign traffic, DESIGN CHOICE for the chip's reset,
notes/assumptions/7.md). -/
def Sink.forget (k : Sink) : Sink := { k.forgetRam with regs := Config.freeRegs k.draws }

/-- A byte that begins a two-byte command with an argument: 0x81, 0xAD, 0xF8 (R89). -/
def needsArgument (b : Byte) : Bool := b == 0x81 || b == 0xAD || b == 0xF8

/-- A one-byte command gives the control register it addresses its field (R29, R82, R201). A byte that begins no command (R88)
has no effect in the spec, and U7 advises a sink model to refuse it: the model gives all control registers the free values
`fresh`, since the block goes on (DESIGN CHOICE, notes/assumptions/18.md). -/
def SinkRegs.single (fresh : SinkRegs) (b : Byte) (r : SinkRegs) : SinkRegs :=
  if b &&& 0xFE = 0xAE then { r with displayOn := b.getLsbD 0 }
  else if b &&& 0xC0 = 0x40 then { r with startLine := b.extractLsb' 0 6 }
  else if b &&& 0xFE = 0xA0 then { r with adcReverse := b.getLsbD 0 }
  else if b &&& 0xFE = 0xA6 then { r with displayReverse := b.getLsbD 0 }
  else if b &&& 0xFE = 0xA4 then { r with allPointsOn := b.getLsbD 0 }
  else if b &&& 0xFE = 0xA2 then { r with bias1 := b.getLsbD 0 }
  else if b &&& 0xF7 = 0xC0 then { r with commonReverse := b.getLsbD 3 }
  else if b &&& 0xF8 = 0x28 then { r with power := b.extractLsb' 0 3 }
  else if b &&& 0xF8 = 0x20 then { r with ratio := b.extractLsb' 0 3 }
  else if b = 0xAC then { r with indicatorOn := false }
  else fresh

/-- The argument of a two-byte command, by the command's first byte (R29, R82). An argument that the codec never emits after
that byte (R88; among them booster `0b10`, U7), and one after a byte that takes none, gives all control registers the free
values `fresh` (DESIGN CHOICE, notes/assumptions/18.md). -/
def SinkRegs.argument (fresh : SinkRegs) (first b : Byte) (r : SinkRegs) : SinkRegs :=
  if first = 0x81 ∧ b &&& 0xC0 = 0 then { r with volume := b.extractLsb' 0 6 }
  else if first = 0xAD ∧ b &&& 0xFC = 0 then { r with indicatorOn := true, indicatorMode := b.extractLsb' 0 2 }
  else if first = 0xF8 ∧ (b = 0x00 ∨ b = 0x01 ∨ b = 0x03) then { r with booster := b.extractLsb' 0 2 }
  else fresh

/-- A first byte of a command: SetPage and the two bytes of SetColumn act on the pointers (R62, R89). Every other command
gives its control register a value; what else it does is left out there, so that the RAM is unspecified and the pointers hold
free values afterwards (U14; notes/assumptions/7.md, notes/assumptions/16.md). A byte that begins no command, which can stand
here only after a command was cut short (R209), makes the control registers free as well (R88, U7; DESIGN CHOICE,
notes/assumptions/18.md). -/
def Sink.firstByte (b : Byte) (k : Sink) : Sink :=
  if b &&& 0xF0 = 0xB0 then { k with page := b.extractLsb' 0 4 }
  else if b &&& 0xF0 = 0x10 then { k with colHi := b.extractLsb' 0 4 }
  else if b &&& 0xF0 = 0x00 then { k with colLo := b.extractLsb' 0 4 }
  else if needsArgument b then { k.forgetRam with reader := .argument b }
  else { k.forgetRam with regs := SinkRegs.single (Config.freeRegs k.draws) b k.regs }

/-- One byte of the command channel: a command's first byte, or the argument the reader waits for (R87, R209). -/
def Sink.commandByte (b : Byte) (k : Sink) : Sink :=
  match k.reader with
  | .boundary => k.firstByte b
  | .argument first =>
    { k.forgetRam with regs := SinkRegs.argument (Config.freeRegs k.draws) first b k.regs, reader := .boundary }

/-- One byte of the data channel: `SRAM[SP][SC] <- d`, then `SC <- SC + 1`. What SC holds past the last column, 255, is left
out: a free value (R62; notes/assumptions/7.md, notes/assumptions/16.md). -/
def Sink.dataByte (d : Byte) (k : Sink) : Sink :=
  let stored := { k with ram := Memory.put (sinkAddr k.page k.column) d k.ram }
  if k.column = 0xFF then { stored with draws := k.draws + 1 }.setColumn (Config.freeColumn k.draws)
  else stored.setColumn (k.column + 1)

/-- The bytes of a transaction that reached the sink, in order. -/
def Sink.receive (ch : Channel) (bs : List Byte) (k : Sink) : Sink :=
  match ch with
  | .command => bs.foldl (fun k b => k.commandByte b) k
  | .data => bs.foldl (fun k b => k.dataByte b) k

/-- After a transaction that failed inside a two-byte command the reader stands anywhere (R209, U13): a free value
(notes/assumptions/16.md). -/
def Sink.afterFailure (k : Sink) : Sink :=
  match k.reader with
  | .boundary => k
  | .argument _ => { k with reader := Config.freeReader k.draws, draws := k.draws + 1 }

/-- `SRAM[page][col]`; none is an unspecified value. -/
def Sink.cell (page : BitVec 4) (col : Byte) (k : Sink) : Option Byte := Memory.lookup (sinkAddr page col) k.ram

/-! ### The transport (R64 to R68) -/

/-- The answer of the k-th transaction from here: scheduled, else a free value (R7 (c)). -/
def State.answerAt (k : Nat) (s : State) : TxAnswer :=
  match s.answers[k]? with
  | some a => a
  | none => Config.freeAnswer (s.txCount + k)

/-- What the block is told (R64). -/
def outcomeOf : TxAnswer → TxOutcome
  | .ok => .ok
  | .err t _ => .err t

/-- What the sink has received afterwards: every byte if the answer is Ok, the answer's first bytes if it is an error
(R67). -/
def Sink.answered (ch : Channel) (bs : List Byte) (a : TxAnswer) (k : Sink) : Sink :=
  match a with
  | .ok => k.receive ch bs
  | .err _ received => (k.receive ch (bs.take received)).afterFailure

/-- One transaction: it is answered (always: notes/assumptions/13.md), recorded in T, and felt by the sink (R31, R58, R67,
R68). -/
def State.transact (ch : Channel) (bs : List Byte) (s : State) : State × TxOutcome :=
  let a := s.answerAt 0
  ({ s with
      answers := s.answers.tail
      txCount := s.txCount + 1
      trace := s.trace ++ [⟨ch, bs, outcomeOf a⟩]
      sink := s.sink.answered ch bs a },
    outcomeOf a)

/-- Go on after a transaction that answered Ok; an error ends the sequence (R188 (4)). -/
def andThen (k : State → State × TxOutcome) (r : State × TxOutcome) : State × TxOutcome :=
  match r.2 with
  | .ok => k r.1
  | .err _ => r

/-- `if r = Err(t): raise CommunicationError(t)`, else `return Ok`. -/
def finish (r : State × TxOutcome) : State :=
  match r.2 with
  | .ok => r.1.complete .none
  | .err t => r.1.raise (.communicationError t)

/-- `TxCommands(encode(cmd))`: one Command is one transaction on the command channel (R64, R65). -/
def State.sendCommand (c : Command) (s : State) : State × TxOutcome := s.transact .command (encodeCommand c)

/-- Commands one after the other, up to the first error. -/
def State.sendCommands : List Command → State → State × TxOutcome
  | [], s => (s, .ok)
  | c :: cs, s => andThen (State.sendCommands cs) (s.sendCommand c)

/-- `TxData(MemRead((p, start), stop - start))`: one burst (R65, R143); when it answers Ok, SENT has it (R30). -/
def State.sendBurst (p start stop : Nat) (s : State) : State × TxOutcome :=
  let bs := s.fbRun p start (stop - start)
  andThen (fun t => (t.noteSent p start bs, .ok)) (s.transact .data bs)

/-! ### The operations of the page buffer (R140, R143) -/

/-- SET_PIXEL after its guard (R140). -/
def State.setPixel (x y : Int) (color : Color) (s : State) : State :=
  if inBounds s.cfg x y then
    let p := pageOf y
    let c := columnOf x
    let old := s.fbRead p c
    let new := paint (rowBit y) color old
    if new = old then s else (s.fbWrite p c new).setRange p ((s.range p).include c)
  else s

/-- FLUSH of one page: SetPage, SetColumn, the burst, and only then `DR[p] <- Clean` (R143); a page with nothing pending
is skipped. -/
def State.flushPage (p : Nat) (s : State) : State × TxOutcome :=
  match (s.range p).burst s.cfg.width with
  | none => (s, .ok)
  | some (start, stop) =>
    andThen (fun s => (s.setRange p .clean, .ok))
      (andThen (State.sendBurst p start stop)
        (andThen (State.sendCommand (.setColumn (columnAddr s.cfg start)))
          (s.sendCommand (.setPage (pageAddr p)))))

/-- The loop of FLUSH: n more pages, `fp` being the cursor (R27, R143). -/
def State.flushFrom : Nat → Nat → State → State × TxOutcome
  | 0, _, s => (s, .ok)
  | n + 1, fp, s => andThen (State.flushFrom n (fp + 1)) (s.flushPage fp)

/-! ### RESET_INIT (R167) -/

/-- The answer of the pin phase: scheduled, else a free value (R182). -/
def State.pinAnswer (s : State) : PinAnswer :=
  match s.pins with
  | a :: _ => a
  | [] => Config.freePin s.pinCount

/-- The pin phase took place: the chip's contents are unspecified again (R167, R206), whether or not a pin failed
(notes/assumptions/7.md, notes/assumptions/14.md). What the chip's reset does to the reader of its command channel the spec
does not say, neither at a boundary nor inside a two-byte command: the model leaves the reader where it was (DESIGN CHOICE,
unsafe for claims about the sink, notes/assumptions/7.md). -/
def State.pinPhase (s : State) : State :=
  { s with pins := s.pins.tail, pinCount := s.pinCount + 1, sink := s.sink.forget }

/-- RESET_INIT after its guard, with the commands INIT_SEQUENCE(CFG) gives: a pin error ends it before any command. -/
def State.resetInitWith (cmds : List Command) (s : State) : State :=
  match s.pinAnswer with
  | .err g => s.pinPhase.raise (.pinError g)
  | .ok => finish (State.sendCommands cmds s.pinPhase)

/-! ### Construction (R184, R200) -/

/-- Construction: the configuration is checked, and the reset state established or the block refused
(notes/assumptions/12.md). -/
def construct (cfg : DisplaySpecs) : Except RefuseReason State :=
  if cfg.valid then .ok (State.fresh cfg) else .error .invalidConfig

/-! ### Reading the next input (R7, R58, R66) -/

/-- A foreign bus user sent something: nothing of the block changes, and the sink's RAM and pointers are unspecified (R66),
its control registers too (U2); its reader is left where it was (DEDUCED, notes/assumptions/7.md). -/
def State.foreignTraffic (s : State) : State := { s with sink := s.sink.forget }

/-- What step has to do with the next input. -/
inductive Fetched where
  | noBlock
  | idle
  | foreign (s : State)
  | contention
  | run (i : Instr) (s : State)
  | reserved (s : State)
  | malformed
deriving DecidableEq, Repr

/-- Take the next input. A request is taken whole; bytes after the last operand are not looked at
(notes/assumptions/2.md). Foreign bus users may send only while the block is Detached (R66, R207); notes/assumptions/9.md. -/
def State.fetch (s : State) : Fetched :=
  if s.cfg.valid then
    match s.inputs with
    | [] => .idle
    | .foreign _ _ :: rest =>
      if s.att = .detached then .foreign { s with inputs := rest }.foreignTraffic else .contention
    | .request bs :: rest =>
      match decode bs with
      | .ok (i, _) => .run i { s with inputs := rest }
      | .error (.reservedOp _) => .reserved ({ s with inputs := rest }.refuse .reservedOp)
      | .error _ => .malformed
  else .noBlock

end Sys2Proof.Machine
end

