-- ==== Sys2Proof/Machine/Codec.lean ====
section
/-! DEFINITION. The fifteen command rows: a request to the Command Codec, which returns the bytes and touches nothing
(40_command_codec.md R110). That the host may ask the codec alone is notes/assumptions/1.md. -/

namespace Sys2Proof.Machine

/-- A request to the codec: `Ok(encode(cmd))`; it reads no state, writes none, emits nothing, and has no guard (R110). -/
def State.codec (c : Command) (s : State) : Host.Outcome State Fault Refusal :=
  .next (s.complete (.bytes (encodeCommand c)))

/-- DisplayOnOff (R111). -/
def execDisplayOnOff (on : Bool) (s : State) : Host.Outcome State Fault Refusal := s.codec (.displayOnOff on)

/-- SetStartLine (R112). -/
def execSetStartLine (addr : Byte) (s : State) : Host.Outcome State Fault Refusal := s.codec (.setStartLine addr)

/-- SetPage (R113). -/
def execSetPage (addr : Byte) (s : State) : Host.Outcome State Fault Refusal := s.codec (.setPage addr)

/-- SetColumn (R114): the codec adds no offset. -/
def execSetColumn (addr : Byte) (s : State) : Host.Outcome State Fault Refusal := s.codec (.setColumn addr)

/-- AdcSelect (R115). -/
def execAdcSelect (reverse : Bool) (s : State) : Host.Outcome State Fault Refusal := s.codec (.adcSelect reverse)

/-- SetNormalReverse (R116). -/
def execSetNormalReverse (reverse : Bool) (s : State) : Host.Outcome State Fault Refusal :=
  s.codec (.setNormalReverse reverse)

/-- SetAllPointsOn (R117). -/
def execSetAllPointsOn (on : Bool) (s : State) : Host.Outcome State Fault Refusal := s.codec (.setAllPointsOn on)

/-- SetLcdBias (R118). -/
def execSetLcdBias (biasMode1 : Bool) (s : State) : Host.Outcome State Fault Refusal := s.codec (.setLcdBias biasMode1)

/-- SetCommonOutputMode (R119). -/
def execSetCommonOutputMode (reverse : Bool) (s : State) : Host.Outcome State Fault Refusal :=
  s.codec (.setCommonOutputMode reverse)

/-- SetPowerControl (R120). -/
def execSetPowerControl (b r f : Bool) (s : State) : Host.Outcome State Fault Refusal := s.codec (.setPowerControl b r f)

/-- SetVoltageRegulatorRatio (R121). -/
def execSetVoltageRegulatorRatio (ratio : Byte) (s : State) : Host.Outcome State Fault Refusal :=
  s.codec (.setVoltageRegulatorRatio ratio)

/-- SetElectronicVolume (R122). -/
def execSetElectronicVolume (value : Byte) (s : State) : Host.Outcome State Fault Refusal :=
  s.codec (.setElectronicVolume value)

/-- SetStaticIndicator(None) (R123). -/
def execSetStaticIndicatorNone (s : State) : Host.Outcome State Fault Refusal := s.codec (.setStaticIndicator none)

/-- SetStaticIndicator(Some(mode)) (R124). -/
def execSetStaticIndicatorSome (mode : IndicatorMode) (s : State) : Host.Outcome State Fault Refusal :=
  s.codec (.setStaticIndicator (some mode))

/-- SetBoosterRatio (R125). -/
def execSetBoosterRatio (ratio : BoosterRatio) (s : State) : Host.Outcome State Fault Refusal :=
  s.codec (.setBoosterRatio ratio)

end Sys2Proof.Machine
end

