-- ==== Sys2Proof/Machine/Control.lean ====
section
/-! DEFINITION. Sending a command, attach and detach, mode entry, reset/init (42_mode_and_transport_ops.md R160 to R167),
each as a total function on states, and its meaning. -/

namespace Sys2Proof.Machine

/-- SEND_CMD with its guard (R160): raw mode. -/
def sendCmdOp (c : Command) (s : State) : State := s.inMode .raw fun s => finish (s.sendCommand c)

/-- DETACH with its guards (R161): the handle goes to the caller. -/
def detachOp (s : State) : State :=
  s.inMode .gfx fun s => s.whenAttached fun s => { s with att := .detached }.complete (.handle s.handle)

/-- ATTACH with its guards (R162): the handle is taken unchecked; nothing is flushed or marked dirty. -/
def attachOp (h : Handle) (s : State) : State :=
  s.inMode .gfx fun s => s.whenDetached fun s => { s with att := .attached, handle := h }.complete .none

/-- ENTER_RAW with its guard (R163). -/
def enterRawOp (s : State) : State := s.inMode .uninit fun s => { s with mode := .raw }.complete .none

/-- ENTER_GFX with its guard (R164): only MODE changes. -/
def enterGfxOp (s : State) : State := s.inMode .uninit fun s => { s with mode := .gfx }.complete .none

/-- RESET_INIT with its guard (R167): every mode, Attached. -/
def resetInitOp (s : State) : State :=
  s.whenAttached fun s => s.resetInitWith (Config.initSequence s.cfg)

/-- SEND_CMD (R160). -/
def execSendCmd (c : Command) (s : State) : Host.Outcome State Fault Refusal := .next (sendCmdOp c s)

/-- DETACH (R161). -/
def execDetach (s : State) : Host.Outcome State Fault Refusal := .next (detachOp s)

/-- ATTACH (R162). -/
def execAttach (h : Handle) (s : State) : Host.Outcome State Fault Refusal := .next (attachOp h s)

/-- ENTER_RAW (R163). -/
def execEnterRaw (s : State) : Host.Outcome State Fault Refusal := .next (enterRawOp s)

/-- ENTER_GFX (R164). -/
def execEnterGfx (s : State) : Host.Outcome State Fault Refusal := .next (enterGfxOp s)

/-- RESET_INIT (R167). -/
def execResetInit (s : State) : Host.Outcome State Fault Refusal := .next (resetInitOp s)

end Sys2Proof.Machine
end

