-- ==== Sys2Proof/Machine/PageBuffer.lean ====
section
/-! DEFINITION. The operations of the page buffer: SET_PIXEL, DRAW, FLUSH, MARK_ALL_DIRTY, GET_SIZE
(41_page_buffer_ops.md R140 to R146), each as a total function on states, and its meaning. -/

namespace Sys2Proof.Machine

/-- SET_PIXEL with its guard (R140): graphics mode, attached or not. -/
def setPixelOp (x y : Int) (color : Color) (s : State) : State :=
  s.inMode .gfx fun s => (s.setPixel x y color).complete .none

/-- FLUSH with its guards (R143): graphics mode, Attached; the loop starts at page 0. -/
def flushOp (s : State) : State :=
  s.inMode .gfx fun s => s.whenAttached fun s => finish (State.flushFrom s.cfg.pages 0 s)

/-- MARK_ALL_DIRTY with its guard (R144). -/
def markAllDirtyOp (s : State) : State := s.inMode .gfx fun s => s.setAllRanges.complete .none

/-- GET_SIZE with its guard (R145): HEIGHT, not 8 * PAGES. -/
def getSizeOp (s : State) : State := s.inMode .gfx fun s => s.complete (.size s.cfg.width s.cfg.height)

/-- A pixel event (R142). -/
structure PixelEvent where
  x : Int
  y : Int
  color : Color
deriving DecidableEq, Repr

/-- DRAW (R142): no selector of its own; one SET_PIXEL per event, in order, then Ok. -/
def drawOp (events : List PixelEvent) (s : State) : State :=
  s.inMode .gfx fun s => (events.foldl (fun s e => setPixelOp e.x e.y e.color s) s).complete .none

/-- SET_PIXEL (R140). -/
def execSetPixel (x y : Int) (color : Color) (s : State) : Host.Outcome State Fault Refusal :=
  .next (setPixelOp x y color s)

/-- FLUSH (R143). -/
def execFlush (s : State) : Host.Outcome State Fault Refusal := .next (flushOp s)

/-- MARK_ALL_DIRTY (R144). -/
def execMarkAllDirty (s : State) : Host.Outcome State Fault Refusal := .next (markAllDirtyOp s)

/-- GET_SIZE (R145). -/
def execGetSize (s : State) : Host.Outcome State Fault Refusal := .next (getSizeOp s)

end Sys2Proof.Machine
end

