-- ==== Sys2Proof/Machine/Dispatch.lean ====
section
/-! DEFINITION. One arm per instruction. -/

namespace Sys2Proof.Machine

/-- The effect of one instruction. -/
def exec (i : Instr) (s : State) : Host.Outcome State Fault Refusal :=
  match i with
  | .displayOnOff on => Sys2Proof.Machine.execDisplayOnOff on s
  | .setStartLine addr => Sys2Proof.Machine.execSetStartLine addr s
  | .setPage addr => Sys2Proof.Machine.execSetPage addr s
  | .setColumn addr => Sys2Proof.Machine.execSetColumn addr s
  | .adcSelect reverse => Sys2Proof.Machine.execAdcSelect reverse s
  | .setNormalReverse reverse => Sys2Proof.Machine.execSetNormalReverse reverse s
  | .setAllPointsOn on => Sys2Proof.Machine.execSetAllPointsOn on s
  | .setLcdBias biasMode1 => Sys2Proof.Machine.execSetLcdBias biasMode1 s
  | .setCommonOutputMode reverse => Sys2Proof.Machine.execSetCommonOutputMode reverse s
  | .setPowerControl b r f => Sys2Proof.Machine.execSetPowerControl b r f s
  | .setVoltageRegulatorRatio ratio => Sys2Proof.Machine.execSetVoltageRegulatorRatio ratio s
  | .setElectronicVolume value => Sys2Proof.Machine.execSetElectronicVolume value s
  | .setStaticIndicatorNone => Sys2Proof.Machine.execSetStaticIndicatorNone s
  | .setStaticIndicatorSome mode => Sys2Proof.Machine.execSetStaticIndicatorSome mode s
  | .setBoosterRatio ratio => Sys2Proof.Machine.execSetBoosterRatio ratio s
  | .sendCmd cmd => Sys2Proof.Machine.execSendCmd cmd s
  | .setPixel x y color => Sys2Proof.Machine.execSetPixel x y color s
  | .flush => Sys2Proof.Machine.execFlush s
  | .markAllDirty => Sys2Proof.Machine.execMarkAllDirty s
  | .detach => Sys2Proof.Machine.execDetach s
  | .attach handle => Sys2Proof.Machine.execAttach handle s
  | .getSize => Sys2Proof.Machine.execGetSize s
  | .enterRaw => Sys2Proof.Machine.execEnterRaw s
  | .enterGfx => Sys2Proof.Machine.execEnterGfx s
  | .resetInit => Sys2Proof.Machine.execResetInit s

end Sys2Proof.Machine
end

