-- ==== Sys2Proof/Machine/Step.lean ====
section
/-! DEFINITION. One step: take the next input and act on it. One step is one whole host operation (00_scope.md R13). -/

namespace Sys2Proof.Machine

/-- One step. With no input the block does nothing: it has no background activity (R58, R187). A request with a reserved
selector is refused before anything else is looked at (R92, R188 (1)). -/
def step (s : State) : Host.Outcome State Fault Refusal :=
  match s.fetch with
  | .noBlock => .refused .invalidConfig
  | .idle => .next s
  | .foreign t => .next t
  | .contention => .refused .busContention
  | .run i t => exec i t
  | .reserved t => .next t
  | .malformed => .fault .malformedRequest

/-- The state with a request at the head of its inputs. -/
def State.withRequest (bs : List Byte) (s : State) : State := { s with inputs := .request bs :: s.inputs }

/-- The state whose next step runs the instruction of a word of the opcode table: that request is the next input
(notes/assumptions/10.md). -/
def State.withFetchWord (s : State) (nbits w : Nat) : State := s.withRequest (tableBytes nbits w)

end Sys2Proof.Machine
end

