-- ==== Sys2Proof/Safety.lean ====
section
/-! DEFINITION. The terms in which claims are stated: the invariants of the state (10_state.md R21 to R26, 20_memory.md
R63), the transactions a FLUSH has to make (R143), the tables of guards (R190) and transitions (R166), the parameters the
codec keeps (R83), and the reader of a command stream (R89). Nothing here is used by the machine. -/

namespace Sys2Proof.Machine

/-! ### Invariants -/

/-- The stronger invariant of R23 for a present range: `0 <= start < end <= WIDTH`. -/
def DirtyRange.wf (width : Nat) : DirtyRange → Bool
  | .clean => true
  | .dirty s e => decide (s < e) && decide (e ≤ width)

/-- A column lies inside the range. -/
def DirtyRange.covers (c : Nat) : DirtyRange → Bool
  | .clean => false
  | .dirty s e => decide (s ≤ c) && decide (c < e)

/-- One range per page, each as R23 says. -/
def State.rangesWf (s : State) : Prop :=
  s.dr.length = s.cfg.pages ∧ ∀ r ∈ s.dr, r.wf s.cfg.width = true

/-- The memories are in their canonical form, and the framebuffer lists no address outside its PAGES * WIDTH bytes
(R50). -/
def State.memoriesWf (s : State) : Prop :=
  Memory.wf s.fb = true ∧ Memory.sorted s.sent = true ∧ Memory.sorted s.sink.ram = true ∧
    ∀ cell ∈ s.fb, cell.1 < s.cfg.pages * s.cfg.width

/-- Outside graphics mode the block holds the transport (R26, R166), and the page buffer is as construction left it and
nothing was sent from it (R163, R164). -/
def State.modeLegal (s : State) : Prop :=
  s.mode ≠ .gfx →
    s.att = .attached ∧ s.fb = [] ∧ s.dr = List.replicate s.cfg.pages (fullRange s.cfg) ∧ s.sent = []

/-- The bits of the last page that stand for rows at or beyond HEIGHT are 0 (R21). -/
def State.rowsBeyondHeightClear (s : State) : Prop :=
  ∀ p c b, p < s.cfg.pages → c < s.cfg.width → b < 8 → s.cfg.height ≤ 8 * p + b →
    (s.fbRead p c).getLsbD b = false

/-- The law of SENT (R63): outside the dirty ranges, what was sent is what the framebuffer holds. -/
def State.sentLaw (s : State) : Prop :=
  ∀ p c, p < s.cfg.pages → c < s.cfg.width → (s.range p).covers c = false → s.sentAt p c = some (s.fbRead p c)

/-- The invariant of the block. -/
structure State.Inv (s : State) : Prop where
  cfgValid : s.cfg.valid
  ranges : s.rangesWf
  memories : s.memoriesWf
  modes : s.modeLegal
  rows : s.rowsBeyondHeightClear
  sent : s.sentLaw

/-- The sink's RAM cell to which cell (p, c) goes: page p, column COLUMN_OFFSET + c (R56). -/
def State.shown (p c : Nat) (s : State) : Option Byte :=
  s.sink.cell (BitVec.ofNat 4 p) (columnAddr s.cfg c)

/-- The display RAM shows the framebuffer outside the dirty ranges, and the sink waits for a command unless raw commands
are being sent. -/
def State.sinkInSync (s : State) : Prop :=
  (s.mode ≠ .raw → s.sink.reader = .boundary) ∧
    ∀ p c, p < s.cfg.pages → c < s.cfg.width → (s.range p).covers c = false → s.shown p c = some (s.fbRead p c)

/-- The last sentence of R63: what SENT holds of a cell is what the display RAM shows of it; and the sink waits for a command
unless raw commands are being sent. -/
def State.sinkShowsSent (s : State) : Prop :=
  (s.mode ≠ .raw → s.sink.reader = .boundary) ∧
    ∀ p c v, p < s.cfg.pages → c < s.cfg.width → s.sentAt p c = some v → s.shown p c = some v

/-! ### The transactions of a FLUSH (R143) -/

/-- A transaction that a FLUSH has to make, with the page it is for. -/
structure PlannedTx where
  page : Nat
  channel : Channel
  bytes : List Byte
deriving DecidableEq, Repr

/-- The three transactions of a dirty page, in order; none for a page with nothing pending. -/
def State.pagePlan (s : State) (p : Nat) : List PlannedTx :=
  match (s.range p).burst s.cfg.width with
  | none => []
  | some (start, stop) =>
    [⟨p, .command, encodeCommand (.setPage (BitVec.ofNat 8 p))⟩,
     ⟨p, .command, encodeCommand (.setColumn (BitVec.ofNat 8 ((s.cfg.columnOffset + start) % 256)))⟩,
     ⟨p, .data, (List.range (stop - start)).map fun k => s.fbRead p (start + k)⟩]

/-- All transactions of a FLUSH, pages in ascending order. -/
def State.flushPlan (s : State) : List PlannedTx := (List.range s.cfg.pages).flatMap s.pagePlan

/-- A planned transaction as an event of the trace. -/
def PlannedTx.event (outcome : TxOutcome) (tx : PlannedTx) : TxEvent := ⟨tx.channel, tx.bytes, outcome⟩

/-- The next n transactions are answered Ok. -/
def State.answersOk (n : Nat) (s : State) : Prop := ∀ k, k < n → s.answerAt k = .ok

/-- The transactions of a list of commands, all answered Ok. -/
def commandEvents (cs : List Command) : List TxEvent := cs.map fun c => ⟨.command, encodeCommand c, .ok⟩

/-! ### The tables of R190 and R166 -/

/-- The table of R190: the reason for which an instruction is refused in a mode and attach state; none where the guard
passes. The codec has no guard (R110). -/
def guardTable : Instr → Mode → Attach → Option RefuseReason
  | .sendCmd _, .raw, _ => none
  | .sendCmd _, _, _ => some .wrongMode
  | .setPixel _ _ _, .gfx, _ => none
  | .setPixel _ _ _, _, _ => some .wrongMode
  | .flush, .gfx, .attached => none
  | .flush, .gfx, .detached => some .notAttached
  | .flush, _, _ => some .wrongMode
  | .markAllDirty, .gfx, _ => none
  | .markAllDirty, _, _ => some .wrongMode
  | .getSize, .gfx, _ => none
  | .getSize, _, _ => some .wrongMode
  | .detach, .gfx, .attached => none
  | .detach, .gfx, .detached => some .notAttached
  | .detach, _, _ => some .wrongMode
  | .attach _, .gfx, .detached => none
  | .attach _, .gfx, .attached => some .alreadyAttached
  | .attach _, _, _ => some .wrongMode
  | .enterRaw, .uninit, _ => none
  | .enterRaw, _, _ => some .wrongMode
  | .enterGfx, .uninit, _ => none
  | .enterGfx, _, _ => some .wrongMode
  | .resetInit, _, .attached => none
  | .resetInit, _, .detached => some .notAttached
  | _, _, _ => none

/-- The transition table of R166; any pair that is not listed stays. -/
def transitionTable : Instr → Mode × Attach → Mode × Attach
  | .enterRaw, (.uninit, .attached) => (.raw, .attached)
  | .enterGfx, (.uninit, .attached) => (.gfx, .attached)
  | .detach, (.gfx, .attached) => (.gfx, .detached)
  | .attach _, (.gfx, .detached) => (.gfx, .attached)
  | _, pair => pair

/-- The instructions that may emit (R58 (c)). -/
def emits : Instr → Bool
  | .sendCmd _ => true
  | .flush => true
  | .resetInit => true
  | _ => false

/-- The answer of an operation is not a refusal. -/
def OpResult.notRefused : OpResult → Bool
  | .ok _ => true
  | .err _ => true
  | .refused _ => false

end Sys2Proof.Machine

namespace Sys2Proof

/-- The Command with each numeric parameter cut to the field the codec keeps (R82, R83), by arithmetic. -/
def Command.kept : Command → Command
  | .setStartLine addr => .setStartLine (BitVec.ofNat 8 (addr.toNat % 64))
  | .setPage addr => .setPage (BitVec.ofNat 8 (addr.toNat % 16))
  | .setVoltageRegulatorRatio ratio => .setVoltageRegulatorRatio (BitVec.ofNat 8 (ratio.toNat % 8))
  | .setElectronicVolume value => .setElectronicVolume (BitVec.ofNat 8 (value.toNat % 64))
  | c => c

/-- A reader of the command channel: command rows one after the other, at most n of them. -/
def readStream : Nat → List Byte → Option (List Instr)
  | _, [] => some []
  | 0, _ :: _ => none
  | n + 1, b :: rest =>
    match decode (b :: rest) with
    | .ok (i, left) => (readStream n left).map (i :: ·)
    | .error _ => none

/-- The first bytes that begin no command and are no selector (R88): 112 values. -/
def neverFirst (b : Byte) : Bool :=
  let n := b.toNat
  (0x30 ≤ n && n ≤ 0x3F) || n == 0x80 || (0x82 ≤ n && n ≤ 0x9F) || (0xA8 ≤ n && n ≤ 0xAB) || (0xC1 ≤ n && n ≤ 0xC7) ||
    (0xC9 ≤ n && n ≤ 0xF7) || 0xF9 ≤ n

end Sys2Proof
end

