-- ==== Sys2Proof/Certificates/Slice0/Obligations.lean ====
section
/-! DEFINITION. The statements for the provers. -/

open Sys2Proof Sys2Proof.Machine

/-! ### The codec -/

/-- R111, R115 to R120: the one byte of every command whose parameters are Booleans. -/
def Obligations.BooleanCommandBytes : Prop :=
  ∀ a b c : Bool,
    encodeCommand (.displayOnOff a) = [if a then 0xAF else 0xAE] ∧
    encodeCommand (.adcSelect a) = [if a then 0xA1 else 0xA0] ∧
    encodeCommand (.setNormalReverse a) = [if a then 0xA7 else 0xA6] ∧
    encodeCommand (.setAllPointsOn a) = [if a then 0xA5 else 0xA4] ∧
    encodeCommand (.setLcdBias a) = [if a then 0xA3 else 0xA2] ∧
    encodeCommand (.setCommonOutputMode a) = [if a then 0xC8 else 0xC0] ∧
    encodeCommand (.setPowerControl a b c) = [BitVec.ofNat 8 (0x28 + 4 * a.toNat + 2 * b.toNat + c.toNat)]

/-- R112, R113, R121, R122: numeric parameters are cut to their field, whatever their 8 bits. -/
def Obligations.NumericCommandBytes : Prop :=
  ∀ p : Byte,
    encodeCommand (.setStartLine p) = [BitVec.ofNat 8 (0x40 + p.toNat % 64)] ∧
    encodeCommand (.setPage p) = [BitVec.ofNat 8 (0xB0 + p.toNat % 16)] ∧
    encodeCommand (.setVoltageRegulatorRatio p) = [BitVec.ofNat 8 (0x20 + p.toNat % 8)] ∧
    encodeCommand (.setElectronicVolume p) = [0x81, BitVec.ofNat 8 (p.toNat % 64)]

/-- R114 with its decisions D5 and D6: SetColumn is one command of two bytes, upper nibble first, with no offset added. -/
def Obligations.SetColumnBytes : Prop :=
  ∀ p : Byte,
    encodeCommand (.setColumn p) = [BitVec.ofNat 8 (0x10 + p.toNat / 16), BitVec.ofNat 8 (p.toNat % 16)]

/-- R123 to R125: the commands with an enumerated parameter. -/
def Obligations.EnumeratedCommandBytes : Prop :=
  encodeCommand (.setStaticIndicator none) = [0xAC] ∧
  encodeCommand (.setStaticIndicator (some .off)) = [0xAD, 0x00] ∧
  encodeCommand (.setStaticIndicator (some .blinkSlow)) = [0xAD, 0x01] ∧
  encodeCommand (.setStaticIndicator (some .blinkFast)) = [0xAD, 0x02] ∧
  encodeCommand (.setStaticIndicator (some .on)) = [0xAD, 0x03] ∧
  encodeCommand (.setBoosterRatio .stepUp2x3x4x) = [0xF8, 0x00] ∧
  encodeCommand (.setBoosterRatio .stepUp5x) = [0xF8, 0x01] ∧
  encodeCommand (.setBoosterRatio .stepUp6x) = [0xF8, 0x03]

/-- R86, R126 (b), (c): the bytes determine the command but for the parameter bits that are dropped, and depend on
nothing else. -/
def Obligations.EncodingIsInjectiveOnKeptParameters : Prop :=
  ∀ c d : Command, encodeCommand c = encodeCommand d ↔ c.kept = d.kept

/-- R86, R126 (b): the first byte alone names the row of the table; truncation never turns one command into another. -/
def Obligations.FirstByteNamesTheRow : Prop :=
  ∀ c d : Command, (encodeCommand c).head? = (encodeCommand d).head? →
    commandTag c = commandTag d ∧ (encodeCommand c).length = (encodeCommand d).length

/-- R87, R89: the bytes of any sequence of commands, one after the other, read back as that sequence, with the
parameters that the codec keeps. -/
def Obligations.CommandStreamReadsBack : Prop :=
  ∀ cs : List Command,
    readStream cs.length (cs.flatMap encodeCommand) = some (cs.map fun c => Instr.ofCommand c.kept)

/-- The codec is total and a codec request has no guard and no effect but its result (R110). That a command row stands
for a request to the codec is the model's choice (notes/assumptions/1.md). -/
def Obligations.CodecRequestsReturnTheBytes : Prop :=
  ∀ (s : State) (a b c : Bool) (p : Byte) (m : IndicatorMode) (r : BoosterRatio),
    exec (.displayOnOff a) s = .next { s with result := some (.ok (.bytes (encodeCommand (.displayOnOff a)))) } ∧
    exec (.setStartLine p) s = .next { s with result := some (.ok (.bytes (encodeCommand (.setStartLine p)))) } ∧
    exec (.setPage p) s = .next { s with result := some (.ok (.bytes (encodeCommand (.setPage p)))) } ∧
    exec (.setColumn p) s = .next { s with result := some (.ok (.bytes (encodeCommand (.setColumn p)))) } ∧
    exec (.adcSelect a) s = .next { s with result := some (.ok (.bytes (encodeCommand (.adcSelect a)))) } ∧
    exec (.setNormalReverse a) s =
      .next { s with result := some (.ok (.bytes (encodeCommand (.setNormalReverse a)))) } ∧
    exec (.setAllPointsOn a) s = .next { s with result := some (.ok (.bytes (encodeCommand (.setAllPointsOn a)))) } ∧
    exec (.setLcdBias a) s = .next { s with result := some (.ok (.bytes (encodeCommand (.setLcdBias a)))) } ∧
    exec (.setCommonOutputMode a) s =
      .next { s with result := some (.ok (.bytes (encodeCommand (.setCommonOutputMode a)))) } ∧
    exec (.setPowerControl a b c) s =
      .next { s with result := some (.ok (.bytes (encodeCommand (.setPowerControl a b c)))) } ∧
    exec (.setVoltageRegulatorRatio p) s =
      .next { s with result := some (.ok (.bytes (encodeCommand (.setVoltageRegulatorRatio p)))) } ∧
    exec (.setElectronicVolume p) s =
      .next { s with result := some (.ok (.bytes (encodeCommand (.setElectronicVolume p)))) } ∧
    exec .setStaticIndicatorNone s =
      .next { s with result := some (.ok (.bytes (encodeCommand (.setStaticIndicator none)))) } ∧
    exec (.setStaticIndicatorSome m) s =
      .next { s with result := some (.ok (.bytes (encodeCommand (.setStaticIndicator (some m))))) } ∧
    exec (.setBoosterRatio r) s = .next { s with result := some (.ok (.bytes (encodeCommand (.setBoosterRatio r)))) }

/-! ### Encoding of requests -/

/-- Decode and encode agree, for every well-formed instruction of every row, whatever bytes follow. The operand layout
after a selector is the model's choice (notes/assumptions/2.md). -/
def Obligations.DecodeOfEncode : Prop :=
  ∀ (i : Instr) (rest : List Byte), i.wf = true → decode (encode i ++ rest) = .ok (i, rest)

/-- R92: exactly the selectors 0x0 and 0xB to 0xF are rejected as reserved. That the selector is the request's first byte, so
that no byte from 0x10 on is reserved, is the model's request layout (notes/assumptions/2.md, DESIGN CHOICE). -/
def Obligations.ReservedSelectorsAreRejected : Prop :=
  ∀ (b opsel : Byte) (rest : List Byte),
    decode (b :: rest) = .error (.reservedOp opsel) ↔ opsel = b ∧ (b.toNat = 0 ∨ (11 ≤ b.toNat ∧ b.toNat ≤ 15))

/-- Exactly the 112 first bytes that R88 lists as never emitted by the codec begin no instruction. R88 gives the list; that a
request beginning with such a byte is rejected, and no other byte so, is the model's choice (notes/assumptions/1.md and
notes/assumptions/2.md, DESIGN CHOICE). -/
def Obligations.NeverEmittedFirstBytesAreRejected : Prop :=
  ∀ (b first : Byte) (rest : List Byte),
    decode (b :: rest) = .error (.noCommand first) ↔ first = b ∧ neverFirst b = true

/-- Nine words of the opcode table, one or more of every format, name the row's instruction (R82, R91), and two that are of no
row name none. How a word is numbered and padded is notes/assumptions/10.md (DEDUCED), that a bare command row is a request
notes/assumptions/1.md (DESIGN CHOICE). -/
def Obligations.TableWordsDecode : Prop :=
  decodeTableWord 8 0xAF = some (.displayOnOff true) ∧
  decodeTableWord 8 0xC8 = some (.setCommonOutputMode true) ∧
  decodeTableWord 8 0x2C = some (.setPowerControl true false false) ∧
  decodeTableWord 16 0x1803 = some (.setColumn 0x83) ∧
  decodeTableWord 16 0x8128 = some (.setElectronicVolume 0x28) ∧
  decodeTableWord 16 0xAD02 = some (.setStaticIndicatorSome .blinkFast) ∧
  decodeTableWord 16 0xF803 = some (.setBoosterRatio .stepUp6x) ∧
  decodeTableWord 16 0xF802 = none ∧
  decodeTableWord 8 0x3 = some .flush ∧
  decodeTableWord 8 0xA = some .resetInit ∧
  decodeTableWord 8 0xB = none

/-! ### The step -/

/-- A step runs the decoded request, which is taken off the inputs. -/
def Obligations.StepRunsTheDecodedRequest : Prop :=
  ∀ (s : State) (bs : List Byte) (later : List Input) (i : Instr) (rest : List Byte),
    s.cfg.valid → s.inputs = .request bs :: later → decode bs = .ok (i, rest) →
      step s = exec i { s with inputs := later }

/-- A word of the opcode table put on the port is what the very next step runs. -/
def Obligations.StepRunsTheFetchWord : Prop :=
  ∀ (s : State) (nbits w : Nat) (i : Instr), s.cfg.valid → decodeTableWord nbits w = some i →
    step (s.withFetchWord nbits w) = exec i s

/-- The other steps: a reserved selector is refused and changes nothing (R92), with no input nothing happens (R58, R187),
foreign traffic while Detached leaves all but the sink (R66), foreign traffic while Attached is outside the specification
(R207), and a block with an invalid configuration admits nothing (R184). The model's choices are the stop on a malformed
request (notes/assumptions/2.md), the list of inputs (notes/assumptions/9.md), and what foreign traffic makes of the sink:
free values, and the reader where it was (notes/assumptions/7.md, DEDUCED; notes/assumptions/16.md). -/
def Obligations.StepWithoutAnInstruction : Prop :=
  ∀ (s : State) (bs rest : List Byte) (ch : Channel) (later : List Input) (b : Byte),
    (s.cfg.valid → s.inputs = .request (b :: rest) :: later → (b.toNat = 0 ∨ (11 ≤ b.toNat ∧ b.toNat ≤ 15)) →
      step s = .next { s with inputs := later, result := some (.refused .reservedOp) }) ∧
    (s.cfg.valid → s.inputs = .request (b :: rest) :: later → neverFirst b = true →
      step s = .fault .malformedRequest) ∧
    (s.cfg.valid → s.inputs = [] → step s = .next s) ∧
    (s.cfg.valid → s.inputs = .foreign ch bs :: later → s.att = .detached →
      step s = .next { s with inputs := later, sink := s.sink.forget }) ∧
    (s.cfg.valid → s.inputs = .foreign ch bs :: later → s.att = .attached → step s = .refused .busContention) ∧
    (¬ s.cfg.valid → step s = .refused .invalidConfig)

/-! ### Sending a command -/

/-- R160: SEND_CMD is one transaction on the command channel with the bytes of the command; on an error the operation ends
with it; outside raw mode it is refused; nothing else changes. The model's choices are that the selector 0x1 is the request's
first byte (notes/assumptions/2.md) and what the sink makes of the bytes (notes/assumptions/7.md). -/
def Obligations.SendCmdIsOneTransaction : Prop :=
  ∀ (s : State) (c : Command),
    (encode (.sendCmd c)).head? = some 0x1 ∧
    (s.mode = .raw → s.answerAt 0 = .ok →
      exec (.sendCmd c) s = .next { s with
        answers := s.answers.tail, txCount := s.txCount + 1,
        trace := s.trace ++ [⟨.command, encodeCommand c, .ok⟩],
        sink := s.sink.receive .command (encodeCommand c),
        result := some (.ok .none) }) ∧
    (∀ t n, s.mode = .raw → s.answerAt 0 = .err t n →
      exec (.sendCmd c) s = .next { s with
        answers := s.answers.tail, txCount := s.txCount + 1,
        trace := s.trace ++ [⟨.command, encodeCommand c, .err t⟩],
        sink := (s.sink.receive .command ((encodeCommand c).take n)).afterFailure,
        result := some (.err (.communicationError t)) }) ∧
    (s.mode ≠ .raw → exec (.sendCmd c) s = .next { s with result := some (.refused .wrongMode) })

/-- The value that a command gives the control register of the sink that it addresses (R29, R82, R201), on a sink that
waits for a command; the reader waits for a command again. The registers are the spec's; that a command received whole
sets its register to its field, and what becomes of the rest of the sink, is notes/assumptions/7.md. -/
def Obligations.CommandsSetTheirControlRegister : Prop :=
  ∀ (k : Sink) (a b c : Bool) (p : Byte) (m : IndicatorMode) (r : BoosterRatio), k.reader = .boundary →
    (k.receive .command (encodeCommand (.displayOnOff a))).regs = { k.regs with displayOn := a } ∧
    (k.receive .command (encodeCommand (.setStartLine p))).regs =
      { k.regs with startLine := BitVec.ofNat 6 p.toNat } ∧
    (k.receive .command (encodeCommand (.setPage p))) = { k with page := BitVec.ofNat 4 p.toNat } ∧
    (k.receive .command (encodeCommand (.setColumn p))) =
      { k with colHi := BitVec.ofNat 4 (p.toNat / 16), colLo := BitVec.ofNat 4 p.toNat } ∧
    (k.receive .command (encodeCommand (.adcSelect a))).regs = { k.regs with adcReverse := a } ∧
    (k.receive .command (encodeCommand (.setNormalReverse a))).regs = { k.regs with displayReverse := a } ∧
    (k.receive .command (encodeCommand (.setAllPointsOn a))).regs = { k.regs with allPointsOn := a } ∧
    (k.receive .command (encodeCommand (.setLcdBias a))).regs = { k.regs with bias1 := a } ∧
    (k.receive .command (encodeCommand (.setCommonOutputMode a))).regs = { k.regs with commonReverse := a } ∧
    (k.receive .command (encodeCommand (.setPowerControl a b c))).regs =
      { k.regs with power := BitVec.ofNat 3 (4 * a.toNat + 2 * b.toNat + c.toNat) } ∧
    (k.receive .command (encodeCommand (.setVoltageRegulatorRatio p))).regs =
      { k.regs with ratio := BitVec.ofNat 3 p.toNat } ∧
    (k.receive .command (encodeCommand (.setElectronicVolume p))).regs =
      { k.regs with volume := BitVec.ofNat 6 p.toNat } ∧
    (k.receive .command (encodeCommand (.setStaticIndicator none))).regs =
      { k.regs with indicatorOn := false } ∧
    (k.receive .command (encodeCommand (.setStaticIndicator (some m)))).regs =
      { k.regs with indicatorOn := true, indicatorMode := (indicatorCode m).extractLsb' 0 2 } ∧
    (k.receive .command (encodeCommand (.setBoosterRatio r))).regs =
      { k.regs with booster := (boosterCode r).extractLsb' 0 2 } ∧
    ∀ cmd : Command, (k.receive .command (encodeCommand cmd)).reader = .boundary

/-- R62, of a data byte on the reference sink (general knowledge, decision D18, notes/assumptions/7.md): it is stored at
(SP, SC), no other cell changes, SP stays, and SC advances by one but past the last column, 255, where R62 leaves it out. It
holds whatever the pointers are, free values included (notes/assumptions/16.md). -/
def Obligations.DataByteStoresAndAdvances : Prop :=
  ∀ (k : Sink) (d : Byte) (page : BitVec 4) (col : Byte),
    (k.receive .data [d]).cell page col =
      (if page = k.page ∧ col = k.column then some d else k.cell page col) ∧
    (k.receive .data [d]).page = k.page ∧
    (k.column ≠ 0xFF → (k.receive .data [d]).column = k.column + 1) ∧
    (k.receive .data [d]).regs = k.regs ∧ (k.receive .data [d]).reader = k.reader

/-! ### Pixels -/

/-- R140: outside the bounds nothing but the result changes; inside, one bit of one byte takes the colour, and if the byte
changed the page's range takes the union with the column; outside graphics mode the operation is refused. The frame is in the
equalities: no other page's range, no other byte, no other field. That the selector 0x2 is the request's first byte is the
model's layout (notes/assumptions/2.md, DESIGN CHOICE). -/
def Obligations.SetPixelPaintsOneBit : Prop :=
  ∀ (s : State) (x y : Int) (color : Color),
    (encode (.setPixel x y color)).head? = some 0x2 ∧
    (s.mode = .gfx → ¬ (0 ≤ x ∧ x < s.cfg.width ∧ 0 ≤ y ∧ y < s.cfg.height) →
      exec (.setPixel x y color) s = .next { s with result := some (.ok .none) }) ∧
    (∀ cx cy : Nat, x = cx → y = cy → s.mode = .gfx → cx < s.cfg.width → cy < s.cfg.height →
      ∃ new : Byte,
        (∀ b, b < 8 → new.getLsbD b =
          if b = cy % 8 then decide (color = .on) else (s.fbRead (cy / 8) cx).getLsbD b) ∧
        exec (.setPixel x y color) s = .next
          (if new = s.fbRead (cy / 8) cx then { s with result := some (.ok .none) }
           else { s with
            fb := Memory.write (cellAddr s.cfg (cy / 8) cx) new s.fb
            dr := s.dr.set (cy / 8)
              (match s.range (cy / 8) with
               | .clean => .dirty cx (cx + 1)
               | .dirty a e => .dirty (min a cx) (max e (cx + 1)))
            result := some (.ok .none) })) ∧
    (s.mode ≠ .gfx → exec (.setPixel x y color) s = .next { s with result := some (.refused .wrongMode) })

/-- The frame of SET_PIXEL: every framebuffer byte but the addressed one reads as before, every other page keeps its
range, and no other field but the result changes. -/
def Obligations.SetPixelFrame : Prop :=
  ∀ (s t : State) (x y : Int) (color : Color), exec (.setPixel x y color) s = .next t →
    (∀ a, a ≠ cellAddr s.cfg (pageOf y) (columnOf x) → Memory.read a t.fb = Memory.read a s.fb) ∧
    (∀ p, p ≠ pageOf y → t.range p = s.range p) ∧
    t = { s with fb := t.fb, dr := t.dr, result := t.result }

/-- R21, R140: a pixel that was set reads as its colour, and every other pixel of the resolution reads as before. The
memory is in its canonical form, which every step keeps (Obligations.StepKeepsTheInvariant). -/
def Obligations.SetPixelThenReadPixels : Prop :=
  ∀ (s : State) (x y x' y' : Nat) (color : Color), s.mode = .gfx → Memory.wf s.fb = true →
    x < s.cfg.width → y < s.cfg.height → x' < s.cfg.width → y' < s.cfg.height →
    ∃ t, exec (.setPixel x y color) s = .next t ∧ t.result = some (.ok .none) ∧
      t.pixel x' y' = if x' = x ∧ y' = y then decide (color = .on) else s.pixel x' y'

/-- R141 (c): a second call with the same coordinates and colour changes nothing. -/
def Obligations.SetPixelIsIdempotent : Prop :=
  ∀ (s t : State) (x y : Int) (color : Color), Memory.wf s.fb = true → exec (.setPixel x y color) s = .next t →
    exec (.setPixel x y color) t = .next t

/-- R142: DRAW applies its events in order, the last event that names a pixel wins, events out of range are skipped, it
emits nothing, and its result is Ok in graphics mode (decision D25). -/
def Obligations.DrawPaintsTheLastColour : Prop :=
  ∀ (s : State) (events : List PixelEvent) (x y : Nat), s.mode = .gfx → Memory.wf s.fb = true →
    x < s.cfg.width → y < s.cfg.height →
    (drawOp events s).pixel x y =
        (match events.reverse.find? (fun e => decide (e.x = (x : Int) ∧ e.y = (y : Int))) with
         | some e => decide (e.color = .on)
         | none => s.pixel x y) ∧
      (drawOp events s).trace = s.trace ∧ (drawOp events s).result = some (.ok .none)

/-! ### FLUSH -/

/-- R143, R53 (c), R65: a FLUSH whose transactions are all answered Ok makes exactly the planned ones, in order, and ends
Ok with every page that was sent clean, every other range, the framebuffer, the mode and the attach state as they were. -/
def Obligations.FlushMakesThePlannedTransactions : Prop :=
  ∀ s : State, s.mode = .gfx → s.att = .attached → s.answersOk s.flushPlan.length →
    ∃ t, exec .flush s = .next t ∧
      t.result = some (.ok .none) ∧
      t.trace = s.trace ++ s.flushPlan.map (PlannedTx.event .ok) ∧
      t.dr.length = s.dr.length ∧
      (∀ p, t.range p = if p < s.cfg.pages ∧ s.pagePlan p ≠ [] then .clean else s.range p) ∧
      t = { s with dr := t.dr, result := t.result, trace := t.trace, sent := t.sent, sink := t.sink,
                   answers := s.answers.drop s.flushPlan.length, txCount := s.txCount + s.flushPlan.length }

/-- R143, R186 (decision D8): a FLUSH ends at the first transaction that answers an error: the trace holds the planned
transactions up to it, the failing one last; pages before the failing one are clean, the failing page and the later ones
keep their ranges; the framebuffer, the mode and the attach state are as they were. -/
def Obligations.FlushStopsAtTheFirstError : Prop :=
  ∀ (s : State) (j : Nat) (tx : PlannedTx) (e : TransportError) (n : Nat), s.mode = .gfx → s.att = .attached →
    s.flushPlan[j]? = some tx → s.answersOk j → s.answerAt j = .err e n →
    ∃ t, exec .flush s = .next t ∧
      t.result = some (.err (.communicationError e)) ∧
      t.trace = s.trace ++ (s.flushPlan.take j).map (PlannedTx.event .ok) ++ [tx.event (.err e)] ∧
      (∀ p, p < tx.page → t.range p = if s.pagePlan p ≠ [] then .clean else s.range p) ∧
      (∀ p, tx.page ≤ p → t.range p = s.range p) ∧
      t = { s with dr := t.dr, result := t.result, trace := t.trace, sent := t.sent, sink := t.sink,
                   answers := s.answers.drop (j + 1), txCount := s.txCount + (j + 1) }

/-- R59: after a FLUSH that returned Ok every page is clean and SENT is the framebuffer, whatever happened before. -/
def Obligations.FlushOkSynchronises : Prop :=
  ∀ s t : State, s.Inv → s.mode = .gfx → s.att = .attached → exec .flush s = .next t →
    t.result = some (.ok .none) → ∀ p, p < t.cfg.pages →
      t.range p = .clean ∧ ∀ c, c < t.cfg.width → t.sentAt p c = some (t.fbRead p c)

/-- R56, R62, R210: in the reference sink a FLUSH that returned Ok writes each cell of each burst at page p, column
COLUMN_OFFSET + c, and no other cell, wherever the sink's pointers stood, if the sink waits for a command. The reference
sink is general knowledge that the spec supplies (notes/assumptions/7.md). -/
def Obligations.FlushOkWritesTheDirtyCellsOfTheSink : Prop :=
  ∀ s t : State, s.cfg.valid → s.rangesWf → s.mode = .gfx → s.att = .attached → s.sink.reader = .boundary →
    exec .flush s = .next t → t.result = some (.ok .none) →
      (∀ p c, p < s.cfg.pages → c < s.cfg.width → (s.range p).covers c = true → t.shown p c = some (s.fbRead p c)) ∧
      (∀ (page : BitVec 4) (col : Byte),
        (∀ p c, p < s.cfg.pages → (s.range p).covers c = true → ¬ (page = BitVec.ofNat 4 p ∧ col = columnAddr s.cfg c)) →
        t.sink.cell page col = s.sink.cell page col)

/-- R66, R206: MARK_ALL_DIRTY and a FLUSH that returns Ok make the sink's RAM show the whole framebuffer again, whatever the
sink's RAM, pointers and control registers held before, if the sink waits for a command (on the reference sink,
notes/assumptions/7.md; a cut-short command, R209, is the case the premise rules out). -/
def Obligations.MarkAllDirtyThenFlushResynchronises : Prop :=
  ∀ s t u : State, s.cfg.valid → s.dr.length = s.cfg.pages → s.mode = .gfx → s.att = .attached →
    s.sink.reader = .boundary → exec .markAllDirty s = .next t → exec .flush t = .next u →
    u.result = some (.ok .none) → ∀ p c, p < s.cfg.pages → c < s.cfg.width → u.shown p c = some (s.fbRead p c)

/-- R146 (a), (b): a FLUSH right after one that returned Ok emits nothing and changes nothing. -/
def Obligations.SecondFlushEmitsNothing : Prop :=
  ∀ s t : State, s.rangesWf → s.mode = .gfx → s.att = .attached → exec .flush s = .next t →
    t.result = some (.ok .none) → exec .flush t = .next t

/-- R146 (a), R203: the first FLUSH in graphics mode, while every range is full-width as after construction, sends every page
in full from column COLUMN_OFFSET: the drawn content, and all zeros if nothing was drawn. Whatever ran before (RESET_INIT,
ENTER_GFX, SET_PIXEL), the new transactions follow the old ones. -/
def Obligations.FirstFlushSendsEveryPage : Prop :=
  ∀ s : State, s.cfg.valid → s.mode = .gfx → s.att = .attached →
    s.dr = List.replicate s.cfg.pages (.dirty 0 s.cfg.width) → s.answersOk (3 * s.cfg.pages) →
    ∃ t, exec .flush s = .next t ∧ t.result = some (.ok .none) ∧
      (t.trace = s.trace ++ (List.range s.cfg.pages).flatMap fun p =>
        [⟨.command, [BitVec.ofNat 8 (0xB0 + p)], .ok⟩,
         ⟨.command, [BitVec.ofNat 8 (0x10 + s.cfg.columnOffset / 16), BitVec.ofNat 8 (s.cfg.columnOffset % 16)], .ok⟩,
         ⟨.data, (List.range s.cfg.width).map (fun c => s.fbRead p c), .ok⟩]) ∧
      (s.fb = [] → t.trace = s.trace ++ (List.range s.cfg.pages).flatMap fun p =>
        [⟨.command, [BitVec.ofNat 8 (0xB0 + p)], .ok⟩,
         ⟨.command, [BitVec.ofNat 8 (0x10 + s.cfg.columnOffset / 16), BitVec.ofNat 8 (s.cfg.columnOffset % 16)], .ok⟩,
         ⟨.data, List.replicate s.cfg.width 0x00, .ok⟩])

/-- R146 (c): one pixel that changes its byte, on a buffer that is clean, makes the next FLUSH send one byte: its own. -/
def Obligations.OnePixelFlushesOneByte : Prop :=
  ∀ (s t : State) (x y : Nat) (color : Color), s.cfg.valid → s.mode = .gfx → s.att = .attached →
    s.dr = List.replicate s.cfg.pages .clean → x < s.cfg.width → y < s.cfg.height →
    s.pixel x y ≠ decide (color = .on) → exec (.setPixel x y color) s = .next t → t.answersOk 3 →
    ∃ u, exec .flush t = .next u ∧ u.result = some (.ok .none) ∧
      u.trace = s.trace ++
        [⟨.command, [BitVec.ofNat 8 (0xB0 + y / 8)], .ok⟩,
         ⟨.command, [BitVec.ofNat 8 (0x10 + (s.cfg.columnOffset + x) / 16),
            BitVec.ofNat 8 ((s.cfg.columnOffset + x) % 16)], .ok⟩,
         ⟨.data, [t.fbRead (y / 8) x], .ok⟩]

/-- R146 (i), R189: the FLUSH after one that failed begins with the SetPage of the page that failed. -/
def Obligations.RetryBeginsAtTheFailedPage : Prop :=
  ∀ (s t u : State) (j : Nat) (tx : PlannedTx) (e : TransportError) (n : Nat), s.rangesWf →
    s.mode = .gfx → s.att = .attached → s.flushPlan[j]? = some tx → s.answersOk j → s.answerAt j = .err e n →
    exec .flush s = .next t → exec .flush t = .next u →
    ∃ outcome more, u.trace = t.trace ++ ⟨.command, encodeCommand (.setPage (BitVec.ofNat 8 tx.page)), outcome⟩ :: more

/-- R214, R215: a FLUSH makes at most 3 * PAGES transactions, whatever the state and the transport's answers; one that
returns Ok sends 3 command bytes and the burst for each dirty page and nothing for a clean one, and a full resync
PAGES * (3 + WIDTH) bytes. -/
def Obligations.FlushCost : Prop :=
  ∀ s t : State, exec .flush s = .next t →
    ∃ events : List TxEvent, t.trace = s.trace ++ events ∧ events.length ≤ 3 * s.cfg.pages ∧
      t.txCount = s.txCount + events.length ∧
      (s.rangesWf → t.result = some (.ok .none) →
        (events.map fun e => e.bytes.length).sum =
          ((List.range s.cfg.pages).map fun p =>
            match s.range p with
            | .clean => 0
            | .dirty start stop => 3 + (stop - start)).sum) ∧
      (s.rangesWf → t.result = some (.ok .none) → s.dr = List.replicate s.cfg.pages (.dirty 0 s.cfg.width) →
        (events.map fun e => e.bytes.length).sum = s.cfg.pages * (3 + s.cfg.width))

/-! ### The other operations -/

/-- R144 (decision D22): MARK_ALL_DIRTY makes every range full-width and changes nothing else, attached or not; outside
graphics mode it is refused. -/
def Obligations.MarkAllDirtySetsEveryRange : Prop :=
  ∀ s : State,
    (s.mode = .gfx → exec .markAllDirty s = .next { s with
      dr := List.replicate s.cfg.pages (.dirty 0 s.cfg.width), result := some (.ok .none) }) ∧
    (s.mode ≠ .gfx → exec .markAllDirty s = .next { s with result := some (.refused .wrongMode) })

/-- R145 (decision D21): GET_SIZE returns (WIDTH, HEIGHT) and changes nothing; outside graphics mode it is refused. -/
def Obligations.GetSizeReturnsTheResolution : Prop :=
  ∀ s : State,
    (s.mode = .gfx → exec .getSize s = .next { s with result := some (.ok (.size s.cfg.width s.cfg.height)) }) ∧
    (s.mode ≠ .gfx → exec .getSize s = .next { s with result := some (.refused .wrongMode) })

/-- R161: DETACH returns the handle and changes ATT only; refused outside graphics mode, then if already detached. -/
def Obligations.DetachHandsTheTransportOver : Prop :=
  ∀ s : State,
    (s.mode = .gfx → s.att = .attached →
      exec .detach s = .next { s with att := .detached, result := some (.ok (.handle s.handle)) }) ∧
    (s.mode = .gfx → s.att = .detached → exec .detach s = .next { s with result := some (.refused .notAttached) }) ∧
    (s.mode ≠ .gfx → exec .detach s = .next { s with result := some (.refused .wrongMode) })

/-- R162: ATTACH takes any handle and changes ATT (and the handle held) only; refused outside graphics mode, then if
already attached. -/
def Obligations.AttachTakesTheTransportBack : Prop :=
  ∀ (s : State) (h : Handle),
    (s.mode = .gfx → s.att = .detached →
      exec (.attach h) s = .next { s with att := .attached, handle := h, result := some (.ok .none) }) ∧
    (s.mode = .gfx → s.att = .attached →
      exec (.attach h) s = .next { s with result := some (.refused .alreadyAttached) }) ∧
    (s.mode ≠ .gfx → exec (.attach h) s = .next { s with result := some (.refused .wrongMode) })

/-- R163, R164 (decisions D11, D23): the two ways out of UNINIT change MODE only; in any other mode they are refused. -/
def Obligations.ModeEntryChangesTheModeOnly : Prop :=
  ∀ s : State,
    (s.mode = .uninit → exec .enterRaw s = .next { s with mode := .raw, result := some (.ok .none) }) ∧
    (s.mode = .uninit → exec .enterGfx s = .next { s with mode := .gfx, result := some (.ok .none) }) ∧
    (s.mode ≠ .uninit → exec .enterRaw s = .next { s with result := some (.refused .wrongMode) }) ∧
    (s.mode ≠ .uninit → exec .enterGfx s = .next { s with result := some (.refused .wrongMode) })

/-- R167 (decision D19): RESET_INIT, with the pins and every transaction answered Ok, sends the commands of
INIT_SEQUENCE(CFG) in order and changes nothing of the block; INIT_SEQUENCE is whatever it is. -/
def Obligations.ResetInitSendsTheSequence : Prop :=
  ∀ s : State, s.att = .attached → s.pinAnswer = .ok → s.answersOk (Config.initSequence s.cfg).length →
    ∃ t, exec .resetInit s = .next t ∧
      t.result = some (.ok .none) ∧
      t.trace = s.trace ++ commandEvents (Config.initSequence s.cfg) ∧
      t = { s with result := t.result, trace := t.trace, sink := t.sink,
                   answers := s.answers.drop (Config.initSequence s.cfg).length,
                   txCount := s.txCount + (Config.initSequence s.cfg).length,
                   pins := s.pins.tail, pinCount := s.pinCount + 1 }

/-- R167, R182, R186 (decision D19): RESET_INIT is the run of its sequence; whatever sequence of commands that is, a pin
error ends it before any command, and a transport error ends it at that command, the ones before were sent; the block
does not change; while Detached it is refused. That a failed pin phase makes the sink's contents free values too is the
model's choice (notes/assumptions/7.md, DEDUCED; notes/assumptions/14.md for the one phase). -/
def Obligations.ResetInitStopsAtTheFirstError : Prop :=
  ∀ (s : State) (cs : List Command),
    (s.att = .attached → exec .resetInit s = .next (s.resetInitWith (Config.initSequence s.cfg))) ∧
    (∀ g, s.pinAnswer = .err g →
      s.resetInitWith cs = { s with
        result := some (.err (.pinError g)), pins := s.pins.tail, pinCount := s.pinCount + 1,
        sink := s.sink.forget }) ∧
    (∀ (j : Nat) (c : Command) (e : TransportError) (n : Nat), s.pinAnswer = .ok →
      cs[j]? = some c → s.answersOk j → s.answerAt j = .err e n →
      ∃ k : Sink, s.resetInitWith cs = { s with
        result := some (.err (.communicationError e))
        trace := s.trace ++ commandEvents (cs.take j) ++ [⟨.command, encodeCommand c, .err e⟩]
        sink := k
        answers := s.answers.drop (j + 1), txCount := s.txCount + (j + 1)
        pins := s.pins.tail, pinCount := s.pinCount + 1 }) ∧
    (s.att = .detached → exec .resetInit s = .next { s with result := some (.refused .notAttached) })

/-! ### The whole machine -/

/-- R190, R188, R183 (decisions D10, D11, D17): an instruction that the table refuses changes nothing but the result,
which is the reason; one that it admits ends in Ok or an error, never in a refusal. -/
def Obligations.GuardsFollowTheTable : Prop :=
  ∀ (i : Instr) (s : State),
    match guardTable i s.mode s.att with
    | some r => exec i s = .next { s with result := some (.refused r) }
    | none => ∃ t q, exec i s = .next t ∧ t.result = some q ∧ q.notRefused = true

/-- R166: mode and attach state move by the transition table and in no other way, from every pair that is reachable. -/
def Obligations.ModesFollowTheTable : Prop :=
  ∀ (i : Instr) (s : State), (s.mode ≠ .gfx → s.att = .attached) →
    ∃ t, exec i s = .next t ∧ (t.mode, t.att) = transitionTable i (s.mode, s.att)

/-- R58 (c), R66, R165: the trace only grows, nothing is emitted but by SEND_CMD, FLUSH and RESET_INIT, and nothing at all
while Detached. -/
def Obligations.OnlyTheEmittersEmit : Prop :=
  ∀ (i : Instr) (s t : State), (s.mode ≠ .gfx → s.att = .attached) → exec i s = .next t →
    s.trace <+: t.trace ∧ (emits i = false → t.trace = s.trace) ∧ (s.att = .detached → t.trace = s.trace)

/-- R64, R65: every event an instruction adds is either the whole encoding of one Command on the command channel or, in
FLUSH, a burst of at least one byte on the data channel. -/
def Obligations.ChannelsCarryWhatTheyShould : Prop :=
  ∀ (i : Instr) (s t : State) (e : TxEvent), exec i s = .next t → e ∈ t.trace.drop s.trace.length →
    (e.channel = .command ∧ ∃ c, e.bytes = encodeCommand c) ∨ (e.channel = .data ∧ e.bytes ≠ [] ∧ i = .flush)

/-- R20, R22, R55: who writes what: the framebuffer only SET_PIXEL, the ranges only SET_PIXEL, FLUSH and MARK_ALL_DIRTY,
ATT only DETACH and ATTACH, MODE only mode entry, CFG and the number of pages nobody; the inputs belong to the step. -/
def Obligations.WritersOfEachElement : Prop :=
  ∀ (i : Instr) (s t : State), exec i s = .next t →
    t.cfg = s.cfg ∧ t.inputs = s.inputs ∧ (s.dr.length = s.cfg.pages → t.dr.length = s.dr.length) ∧
    ((∀ x y c, i ≠ .setPixel x y c) → t.fb = s.fb) ∧
    ((∀ x y c, i ≠ .setPixel x y c) → i ≠ .flush → i ≠ .markAllDirty → t.dr = s.dr) ∧
    (i ≠ .detach → (∀ h, i ≠ .attach h) → t.att = s.att ∧ t.handle = s.handle) ∧
    (i ≠ .enterRaw → i ≠ .enterGfx → t.mode = s.mode) ∧
    (i ≠ .flush → t.sent = s.sent)

/-- R28, R141 (f), (h): no operation but FLUSH shrinks a range. -/
def Obligations.OnlyFlushShrinksARange : Prop :=
  ∀ (i : Instr) (s t : State) (p c : Nat), s.rangesWf → i ≠ .flush → exec i s = .next t →
    (s.range p).covers c = true → (t.range p).covers c = true

/-- R186, R189: an operation that ends in an error leaves the framebuffer, the mode, the attach state, the handle and the
configuration as they were, and no range but a cleaned one differs. -/
def Obligations.ErrorsLeaveTheBlock : Prop :=
  ∀ (i : Instr) (s t : State) (e : OpError), exec i s = .next t → t.result = some (.err e) →
    t.cfg = s.cfg ∧ t.fb = s.fb ∧ t.mode = s.mode ∧ t.att = s.att ∧ t.handle = s.handle ∧
      ∀ p, t.range p = s.range p ∨ t.range p = .clean

/-- R62 (last sentence), R29: no instruction depends on the sink: on two states that differ only in it, everything but it
comes out the same. -/
def Obligations.BlockDoesNotReadTheSink : Prop :=
  ∀ (i : Instr) (s t : State) (k : Sink), exec i s = .next t →
    ∃ k', exec i { s with sink := k } = .next { t with sink := k' }

/-! ### Construction and invariants -/

/-- R32, R33: after construction every framebuffer byte is 0x00 and every page is dirty over its full width. -/
def Obligations.ConstructionClearsAndDirties : Prop :=
  ∀ (cfg : DisplaySpecs) (s : State), construct cfg = .ok s →
    s.cfg = cfg ∧ (∀ p c, s.fbRead p c = 0x00) ∧ s.dr.length = cfg.pages ∧
      ∀ p, p < cfg.pages → s.range p = .dirty 0 cfg.width

/-- R184, R34, R35, R200, R201 (decisions D3, D13): construction succeeds exactly for the valid configurations, in UNINIT,
Attached, with an empty trace, SENT unknown everywhere, no RAM content of the sink known, and its pointers and control
registers at free values, which nothing constrains (notes/assumptions/16.md); State.reset is one such block. The handle's
value is the model's choice (notes/assumptions/3.md), and so is where the sink's reader stands (notes/assumptions/7.md). -/
def Obligations.ConstructionChecksTheConfiguration : Prop :=
  (∀ cfg : DisplaySpecs, ¬ cfg.valid → construct cfg = .error .invalidConfig) ∧
  (∀ cfg : DisplaySpecs, cfg.valid → ∃ s, construct cfg = .ok s ∧ s.mode = .uninit ∧ s.att = .attached ∧
    s.trace = [] ∧ s.result = none ∧ (∀ p c, s.sentAt p c = none) ∧ (∀ page col, s.sink.cell page col = none) ∧
    s.sink.page = Config.freePage 0 ∧ s.sink.column = Config.freeColumn 0 ∧ s.sink.regs = Config.freeRegs 0 ∧
    s.sink.reader = .boundary) ∧
  construct Config.resetSpecs = .ok State.reset

/-- The invariant holds after construction with any valid configuration, State.reset among them. Every cell is dirty and
none was sent then, so that the two clauses about the sink say only that its reader waits for a command, which is the model's
choice (notes/assumptions/7.md, DEDUCED). -/
def Obligations.ConstructionEstablishesTheInvariant : Prop :=
  (∀ cfg : DisplaySpecs, cfg.valid →
    (State.fresh cfg).Inv ∧ (State.fresh cfg).sinkInSync ∧ (State.fresh cfg).sinkShowsSent) ∧
  State.reset.Inv

/-- R21, R23, R26, R63: every step keeps the invariant: valid ranges, canonical memories, legal modes, clear rows beyond
HEIGHT, and the law of SENT, whatever the host asks, the transport answers or foreign bus users send. -/
def Obligations.StepKeepsTheInvariant : Prop :=
  ∀ s t : State, s.Inv → step s = .next t → t.Inv

/-- R63 (last part), R206, R209: in every step but foreign traffic and RESET_INIT the sink's RAM goes on to show the
framebuffer outside the dirty ranges, also when transactions fail after any prefix. -/
def Obligations.StepKeepsTheSinkInSync : Prop :=
  ∀ s t : State, s.Inv → s.sinkInSync → step s = .next t →
    (∀ ch bs later, s.inputs ≠ .foreign ch bs :: later) →
    (∀ bs later rest, s.inputs = .request bs :: later → decode bs ≠ .ok (.resetInit, rest)) →
    t.sinkInSync

/-- R63 (its last sentence): SENT[p][c] = v implies SRAM[p][COLUMN_OFFSET + c] = v. It is kept by every step but those after
which other rules deny it: foreign traffic (R66), a burst that failed, of which any prefix may have arrived (R67), and a reset
of the chip, which loses its RAM, once something was sent (R167, R206), or one that ends in a transport error before graphics
mode, which may leave the sink inside a command (R209); see notes/assumptions/17.md. The reference sink is general knowledge
(notes/assumptions/7.md). -/
def Obligations.StepKeepsSinkShowsSent : Prop :=
  ∀ s t : State, s.Inv → s.sinkShowsSent → step s = .next t →
    (∀ ch bs later, s.inputs ≠ .foreign ch bs :: later) →
    (∀ e ∈ t.trace.drop s.trace.length, e.channel = .data → e.outcome = .ok) →
    (∀ bs later rest, s.inputs = .request bs :: later → decode bs = .ok (.resetInit, rest) →
      s.att = .detached ∨ s.mode = .raw ∨
        (s.mode = .uninit ∧ ∀ e, t.result ≠ some (.err (.communicationError e)))) →
    t.sinkShowsSent
end

