-- ==== Sys2Proof/Laws/Memory.lean ====
section
/-! SUPPORT. The laws of memories: a read after a write, and that every memory operation keeps the canonical form. -/

namespace Sys2Proof.Machine

/-! ### Reading after writing -/

@[simp] theorem Memory.lookup_nil (a : Nat) : Memory.lookup a [] = none := rfl

theorem Memory.lookup_cons (a k : Nat) (v : Byte) (m : Memory) :
    Memory.lookup a ((k, v) :: m) = if k = a then some v else Memory.lookup a m := rfl

/-- What a memory holds after a byte was listed. -/
theorem Memory.lookup_put (a b : Nat) (v : Byte) (m : Memory) :
    Memory.lookup b (Memory.put a v m) = if b = a then some v else Memory.lookup b m := by
  induction m with
  | nil => simp [Memory.put, Memory.lookup, eq_comm]
  | cons cell m ih =>
    obtain ⟨k, u⟩ := cell
    simp only [Memory.put]
    split
    · simp [Memory.lookup_cons, eq_comm]
    · split
      · subst_vars
        simp only [Memory.lookup_cons]
        split <;> simp_all [eq_comm]
      · simp only [Memory.lookup_cons, ih]
        split
        · rw [if_neg (by omega)]
        · rfl

theorem Memory.lookup_unlist_ne {a b : Nat} (h : b ≠ a) (m : Memory) :
    Memory.lookup b (Memory.unlist a m) = Memory.lookup b m := by
  induction m with
  | nil => rfl
  | cons cell m ih =>
    obtain ⟨k, u⟩ := cell
    simp only [Memory.unlist]
    split
    · subst_vars
      simp [Memory.lookup_cons, Ne.symm h]
    · simp only [Memory.lookup_cons, ih]

/-! ### The canonical form -/

/-- `sorted` as a relation between all pairs. -/
theorem Memory.sorted_iff_pairwise (m : Memory) :
    Memory.sorted m = true ↔ m.Pairwise (fun x y => x.1 < y.1) := by
  induction m with
  | nil => simp [Memory.sorted]
  | cons x m ih =>
    obtain ⟨a, u⟩ := x
    cases m with
    | nil => simp [Memory.sorted]
    | cons y m =>
      obtain ⟨b, v⟩ := y
      simp only [Memory.sorted, Bool.and_eq_true, decide_eq_true_eq, ih, List.pairwise_cons]
      constructor
      · rintro ⟨hab, hb, hm⟩
        refine ⟨fun z hz => ?_, hb, hm⟩
        rcases List.mem_cons.1 hz with rfl | hz
        · exact hab
        · exact lt_trans hab (hb z hz)
      · rintro ⟨ha, hb, hm⟩
        exact ⟨ha (b, v) (List.mem_cons_self ..), hb, hm⟩

/-- The entries after listing a byte: the new one and old ones at other addresses. -/
theorem Memory.mem_put {a : Nat} {v : Byte} {m : Memory} {cell : Host.Cell} (h : cell ∈ Memory.put a v m) :
    cell = (a, v) ∨ cell ∈ m := by
  induction m with
  | nil => simpa [Memory.put] using h
  | cons x m ih =>
    obtain ⟨k, u⟩ := x
    simp only [Memory.put] at h
    split at h
    · simpa using h
    · split at h
      · rcases List.mem_cons.1 h with h | h
        · exact .inl h
        · exact .inr (List.mem_cons_of_mem _ h)
      · rcases List.mem_cons.1 h with h | h
        · exact .inr (h ▸ List.mem_cons_self ..)
        · exact (ih h).imp_right (List.mem_cons_of_mem _)

theorem Memory.unlist_sublist (a : Nat) (m : Memory) : (Memory.unlist a m).Sublist m := by
  induction m with
  | nil => exact List.Sublist.refl _
  | cons x m ih =>
    obtain ⟨k, u⟩ := x
    simp only [Memory.unlist]
    split
    · exact List.sublist_cons_self ..
    · exact ih.cons_cons _

theorem Memory.sorted_unlist (a : Nat) {m : Memory} (h : Memory.sorted m = true) :
    Memory.sorted (Memory.unlist a m) = true := by
  rw [Memory.sorted_iff_pairwise] at *
  exact h.sublist (Memory.unlist_sublist a m)

theorem Memory.sorted_put (a : Nat) (v : Byte) {m : Memory} (h : Memory.sorted m = true) :
    Memory.sorted (Memory.put a v m) = true := by
  rw [Memory.sorted_iff_pairwise] at *
  induction m with
  | nil => simp [Memory.put]
  | cons x m ih =>
    obtain ⟨k, u⟩ := x
    obtain ⟨hk, hm⟩ := List.pairwise_cons.1 h
    simp only [Memory.put]
    split
    · rename_i hak
      refine List.pairwise_cons.2 ⟨fun z hz => ?_, h⟩
      rcases List.mem_cons.1 hz with rfl | hz
      · exact hak
      · exact lt_trans hak (hk z hz)
    · split
      · subst_vars
        exact List.pairwise_cons.2 ⟨hk, hm⟩
      · refine List.pairwise_cons.2 ⟨fun z hz => ?_, ih hm⟩
        rcases Memory.mem_put hz with rfl | hz
        · show k < a
          omega
        · exact hk z hz

theorem Memory.sorted_putRun (a : Nat) (bs : List Byte) {m : Memory} (h : Memory.sorted m = true) :
    Memory.sorted (Memory.putRun a bs m) = true := by
  induction bs generalizing a m with
  | nil => exact h
  | cons b bs ih => exact ih (a + 1) (Memory.sorted_put a b h)

/-- In the canonical form a removed address is listed no more. -/
theorem Memory.lookup_unlist_self (a : Nat) {m : Memory} (h : Memory.sorted m = true) :
    Memory.lookup a (Memory.unlist a m) = none := by
  rw [Memory.sorted_iff_pairwise] at h
  induction m with
  | nil => rfl
  | cons x m ih =>
    obtain ⟨k, u⟩ := x
    obtain ⟨hk, hm⟩ := List.pairwise_cons.1 h
    simp only [Memory.unlist]
    split
    · subst_vars
      clear ih h hm
      induction m with
      | nil => rfl
      | cons y m ih =>
        obtain ⟨b, v⟩ := y
        have hb : k < b := hk (b, v) (List.mem_cons_self ..)
        rw [Memory.lookup_cons, if_neg (by omega)]
        exact ih fun z hz => hk z (List.mem_cons_of_mem _ hz)
    · rename_i hne
      rw [Memory.lookup_cons, if_neg hne]
      exact ih hm

/-- Every write of a framebuffer byte keeps the canonical form. -/
theorem Memory.wf_write (a : Nat) (v : Byte) {m : Memory} (h : Memory.wf m = true) :
    Memory.wf (Memory.write a v m) = true := by
  simp only [Memory.wf, Bool.and_eq_true, List.all_eq_true] at *
  obtain ⟨hs, hv⟩ := h
  unfold Memory.write
  split
  · exact ⟨Memory.sorted_unlist a hs, fun x hx => hv x ((Memory.unlist_sublist a m).subset hx)⟩
  · rename_i hne
    refine ⟨Memory.sorted_put a v hs, fun x hx => ?_⟩
    rcases Memory.mem_put hx with rfl | hx
    · simpa using hne
    · exact hv x hx

/-- The framebuffer write of the machine keeps the canonical form. -/
theorem State.fbWrite_wf (p c : Nat) (v : Byte) {s : State} (h : Memory.wf s.fb = true) :
    Memory.wf (s.fbWrite p c v).fb = true := Memory.wf_write _ v h

/-- The note of SENT keeps the rising order. -/
theorem State.noteSent_sorted (p c : Nat) (bs : List Byte) {s : State} (h : Memory.sorted s.sent = true) :
    Memory.sorted (s.noteSent p c bs).sent = true := Memory.sorted_putRun _ bs h

/-- The memories after reset are in their canonical form. -/
theorem State.reset_memories_wf :
    Memory.wf State.reset.fb = true ∧ Memory.sorted State.reset.sent = true ∧
      Memory.sorted State.reset.sink.ram = true := by decide

/-- A framebuffer byte reads as it was written last. -/
theorem Memory.read_write_self (a : Nat) (v : Byte) {m : Memory} (h : Memory.sorted m = true) :
    Memory.read a (Memory.write a v m) = v := by
  unfold Memory.read Memory.write
  split
  · subst_vars
    simp [Memory.lookup_unlist_self a h]
  · simp [Memory.lookup_put]

/-- Every other byte reads as before. -/
theorem Memory.read_write_ne {a b : Nat} (h : b ≠ a) (v : Byte) (m : Memory) :
    Memory.read b (Memory.write a v m) = Memory.read b m := by
  unfold Memory.read Memory.write
  split
  · rw [Memory.lookup_unlist_ne h]
  · rw [Memory.lookup_put, if_neg h]

/-- What a memory holds after a run of bytes was listed. -/
theorem Memory.lookup_putRun (a b : Nat) (bs : List Byte) (m : Memory) :
    Memory.lookup b (Memory.putRun a bs m) =
      if a ≤ b ∧ b < a + bs.length then bs[b - a]? else Memory.lookup b m := by
  induction bs generalizing a m with
  | nil =>
    rw [if_neg (by simp)]
    rfl
  | cons v bs ih =>
    rw [Memory.putRun, ih, Memory.lookup_put, List.length_cons]
    by_cases hba : b = a
    · subst hba
      simp
    · by_cases hin : a + 1 ≤ b ∧ b < a + 1 + bs.length
      · rw [if_pos hin, if_pos (by omega), show b - a = (b - (a + 1)) + 1 by omega, List.getElem?_cons_succ]
      · rw [if_neg hin, if_neg hba, if_neg (by omega)]

end Sys2Proof.Machine
end

