-- ==== Sys2Proof/Laws/State.lean ====
section
/-! SUPPORT. One lemma per field per update of State: what the named updates of the machine do to each field. -/

namespace Sys2Proof.Machine

variable (s : State)

/-! ### State.setRange -/

@[simp] theorem State.setRange_cfg (p : Nat) (r : DirtyRange) : (s.setRange p r).cfg = s.cfg := rfl
@[simp] theorem State.setRange_fb (p : Nat) (r : DirtyRange) : (s.setRange p r).fb = s.fb := rfl
@[simp] theorem State.setRange_dr (p : Nat) (r : DirtyRange) : (s.setRange p r).dr = s.dr.set p r := rfl
@[simp] theorem State.setRange_mode (p : Nat) (r : DirtyRange) : (s.setRange p r).mode = s.mode := rfl
@[simp] theorem State.setRange_att (p : Nat) (r : DirtyRange) : (s.setRange p r).att = s.att := rfl
@[simp] theorem State.setRange_handle (p : Nat) (r : DirtyRange) : (s.setRange p r).handle = s.handle := rfl
@[simp] theorem State.setRange_result (p : Nat) (r : DirtyRange) : (s.setRange p r).result = s.result := rfl
@[simp] theorem State.setRange_trace (p : Nat) (r : DirtyRange) : (s.setRange p r).trace = s.trace := rfl
@[simp] theorem State.setRange_sent (p : Nat) (r : DirtyRange) : (s.setRange p r).sent = s.sent := rfl
@[simp] theorem State.setRange_sink (p : Nat) (r : DirtyRange) : (s.setRange p r).sink = s.sink := rfl
@[simp] theorem State.setRange_inputs (p : Nat) (r : DirtyRange) : (s.setRange p r).inputs = s.inputs := rfl
@[simp] theorem State.setRange_answers (p : Nat) (r : DirtyRange) : (s.setRange p r).answers = s.answers := rfl
@[simp] theorem State.setRange_pins (p : Nat) (r : DirtyRange) : (s.setRange p r).pins = s.pins := rfl
@[simp] theorem State.setRange_txCount (p : Nat) (r : DirtyRange) : (s.setRange p r).txCount = s.txCount := rfl
@[simp] theorem State.setRange_pinCount (p : Nat) (r : DirtyRange) : (s.setRange p r).pinCount = s.pinCount := rfl

/-! ### State.setAllRanges -/

@[simp] theorem State.setAllRanges_cfg : (s.setAllRanges).cfg = s.cfg := rfl
@[simp] theorem State.setAllRanges_fb : (s.setAllRanges).fb = s.fb := rfl
@[simp] theorem State.setAllRanges_dr : (s.setAllRanges).dr = List.replicate s.cfg.pages (fullRange s.cfg) := rfl
@[simp] theorem State.setAllRanges_mode : (s.setAllRanges).mode = s.mode := rfl
@[simp] theorem State.setAllRanges_att : (s.setAllRanges).att = s.att := rfl
@[simp] theorem State.setAllRanges_handle : (s.setAllRanges).handle = s.handle := rfl
@[simp] theorem State.setAllRanges_result : (s.setAllRanges).result = s.result := rfl
@[simp] theorem State.setAllRanges_trace : (s.setAllRanges).trace = s.trace := rfl
@[simp] theorem State.setAllRanges_sent : (s.setAllRanges).sent = s.sent := rfl
@[simp] theorem State.setAllRanges_sink : (s.setAllRanges).sink = s.sink := rfl
@[simp] theorem State.setAllRanges_inputs : (s.setAllRanges).inputs = s.inputs := rfl
@[simp] theorem State.setAllRanges_answers : (s.setAllRanges).answers = s.answers := rfl
@[simp] theorem State.setAllRanges_pins : (s.setAllRanges).pins = s.pins := rfl
@[simp] theorem State.setAllRanges_txCount : (s.setAllRanges).txCount = s.txCount := rfl
@[simp] theorem State.setAllRanges_pinCount : (s.setAllRanges).pinCount = s.pinCount := rfl

/-! ### State.fbWrite -/

@[simp] theorem State.fbWrite_cfg (p c : Nat) (v : Byte) : (s.fbWrite p c v).cfg = s.cfg := rfl
@[simp] theorem State.fbWrite_fb (p c : Nat) (v : Byte) : (s.fbWrite p c v).fb = Memory.write (cellAddr s.cfg p c) v s.fb := rfl
@[simp] theorem State.fbWrite_dr (p c : Nat) (v : Byte) : (s.fbWrite p c v).dr = s.dr := rfl
@[simp] theorem State.fbWrite_mode (p c : Nat) (v : Byte) : (s.fbWrite p c v).mode = s.mode := rfl
@[simp] theorem State.fbWrite_att (p c : Nat) (v : Byte) : (s.fbWrite p c v).att = s.att := rfl
@[simp] theorem State.fbWrite_handle (p c : Nat) (v : Byte) : (s.fbWrite p c v).handle = s.handle := rfl
@[simp] theorem State.fbWrite_result (p c : Nat) (v : Byte) : (s.fbWrite p c v).result = s.result := rfl
@[simp] theorem State.fbWrite_trace (p c : Nat) (v : Byte) : (s.fbWrite p c v).trace = s.trace := rfl
@[simp] theorem State.fbWrite_sent (p c : Nat) (v : Byte) : (s.fbWrite p c v).sent = s.sent := rfl
@[simp] theorem State.fbWrite_sink (p c : Nat) (v : Byte) : (s.fbWrite p c v).sink = s.sink := rfl
@[simp] theorem State.fbWrite_inputs (p c : Nat) (v : Byte) : (s.fbWrite p c v).inputs = s.inputs := rfl
@[simp] theorem State.fbWrite_answers (p c : Nat) (v : Byte) : (s.fbWrite p c v).answers = s.answers := rfl
@[simp] theorem State.fbWrite_pins (p c : Nat) (v : Byte) : (s.fbWrite p c v).pins = s.pins := rfl
@[simp] theorem State.fbWrite_txCount (p c : Nat) (v : Byte) : (s.fbWrite p c v).txCount = s.txCount := rfl
@[simp] theorem State.fbWrite_pinCount (p c : Nat) (v : Byte) : (s.fbWrite p c v).pinCount = s.pinCount := rfl

/-! ### State.noteSent -/

@[simp] theorem State.noteSent_cfg (p c : Nat) (bs : List Byte) : (s.noteSent p c bs).cfg = s.cfg := rfl
@[simp] theorem State.noteSent_fb (p c : Nat) (bs : List Byte) : (s.noteSent p c bs).fb = s.fb := rfl
@[simp] theorem State.noteSent_dr (p c : Nat) (bs : List Byte) : (s.noteSent p c bs).dr = s.dr := rfl
@[simp] theorem State.noteSent_mode (p c : Nat) (bs : List Byte) : (s.noteSent p c bs).mode = s.mode := rfl
@[simp] theorem State.noteSent_att (p c : Nat) (bs : List Byte) : (s.noteSent p c bs).att = s.att := rfl
@[simp] theorem State.noteSent_handle (p c : Nat) (bs : List Byte) : (s.noteSent p c bs).handle = s.handle := rfl
@[simp] theorem State.noteSent_result (p c : Nat) (bs : List Byte) : (s.noteSent p c bs).result = s.result := rfl
@[simp] theorem State.noteSent_trace (p c : Nat) (bs : List Byte) : (s.noteSent p c bs).trace = s.trace := rfl
@[simp] theorem State.noteSent_sent (p c : Nat) (bs : List Byte) : (s.noteSent p c bs).sent = Memory.putRun (cellAddr s.cfg p c) bs s.sent := rfl
@[simp] theorem State.noteSent_sink (p c : Nat) (bs : List Byte) : (s.noteSent p c bs).sink = s.sink := rfl
@[simp] theorem State.noteSent_inputs (p c : Nat) (bs : List Byte) : (s.noteSent p c bs).inputs = s.inputs := rfl
@[simp] theorem State.noteSent_answers (p c : Nat) (bs : List Byte) : (s.noteSent p c bs).answers = s.answers := rfl
@[simp] theorem State.noteSent_pins (p c : Nat) (bs : List Byte) : (s.noteSent p c bs).pins = s.pins := rfl
@[simp] theorem State.noteSent_txCount (p c : Nat) (bs : List Byte) : (s.noteSent p c bs).txCount = s.txCount := rfl
@[simp] theorem State.noteSent_pinCount (p c : Nat) (bs : List Byte) : (s.noteSent p c bs).pinCount = s.pinCount := rfl

/-! ### State.complete -/

@[simp] theorem State.complete_cfg (v : Value) : (s.complete v).cfg = s.cfg := rfl
@[simp] theorem State.complete_fb (v : Value) : (s.complete v).fb = s.fb := rfl
@[simp] theorem State.complete_dr (v : Value) : (s.complete v).dr = s.dr := rfl
@[simp] theorem State.complete_mode (v : Value) : (s.complete v).mode = s.mode := rfl
@[simp] theorem State.complete_att (v : Value) : (s.complete v).att = s.att := rfl
@[simp] theorem State.complete_handle (v : Value) : (s.complete v).handle = s.handle := rfl
@[simp] theorem State.complete_result (v : Value) : (s.complete v).result = some (.ok v) := rfl
@[simp] theorem State.complete_trace (v : Value) : (s.complete v).trace = s.trace := rfl
@[simp] theorem State.complete_sent (v : Value) : (s.complete v).sent = s.sent := rfl
@[simp] theorem State.complete_sink (v : Value) : (s.complete v).sink = s.sink := rfl
@[simp] theorem State.complete_inputs (v : Value) : (s.complete v).inputs = s.inputs := rfl
@[simp] theorem State.complete_answers (v : Value) : (s.complete v).answers = s.answers := rfl
@[simp] theorem State.complete_pins (v : Value) : (s.complete v).pins = s.pins := rfl
@[simp] theorem State.complete_txCount (v : Value) : (s.complete v).txCount = s.txCount := rfl
@[simp] theorem State.complete_pinCount (v : Value) : (s.complete v).pinCount = s.pinCount := rfl

/-! ### State.raise -/

@[simp] theorem State.raise_cfg (e : OpError) : (s.raise e).cfg = s.cfg := rfl
@[simp] theorem State.raise_fb (e : OpError) : (s.raise e).fb = s.fb := rfl
@[simp] theorem State.raise_dr (e : OpError) : (s.raise e).dr = s.dr := rfl
@[simp] theorem State.raise_mode (e : OpError) : (s.raise e).mode = s.mode := rfl
@[simp] theorem State.raise_att (e : OpError) : (s.raise e).att = s.att := rfl
@[simp] theorem State.raise_handle (e : OpError) : (s.raise e).handle = s.handle := rfl
@[simp] theorem State.raise_result (e : OpError) : (s.raise e).result = some (.err e) := rfl
@[simp] theorem State.raise_trace (e : OpError) : (s.raise e).trace = s.trace := rfl
@[simp] theorem State.raise_sent (e : OpError) : (s.raise e).sent = s.sent := rfl
@[simp] theorem State.raise_sink (e : OpError) : (s.raise e).sink = s.sink := rfl
@[simp] theorem State.raise_inputs (e : OpError) : (s.raise e).inputs = s.inputs := rfl
@[simp] theorem State.raise_answers (e : OpError) : (s.raise e).answers = s.answers := rfl
@[simp] theorem State.raise_pins (e : OpError) : (s.raise e).pins = s.pins := rfl
@[simp] theorem State.raise_txCount (e : OpError) : (s.raise e).txCount = s.txCount := rfl
@[simp] theorem State.raise_pinCount (e : OpError) : (s.raise e).pinCount = s.pinCount := rfl

/-! ### State.refuse -/

@[simp] theorem State.refuse_cfg (r : RefuseReason) : (s.refuse r).cfg = s.cfg := rfl
@[simp] theorem State.refuse_fb (r : RefuseReason) : (s.refuse r).fb = s.fb := rfl
@[simp] theorem State.refuse_dr (r : RefuseReason) : (s.refuse r).dr = s.dr := rfl
@[simp] theorem State.refuse_mode (r : RefuseReason) : (s.refuse r).mode = s.mode := rfl
@[simp] theorem State.refuse_att (r : RefuseReason) : (s.refuse r).att = s.att := rfl
@[simp] theorem State.refuse_handle (r : RefuseReason) : (s.refuse r).handle = s.handle := rfl
@[simp] theorem State.refuse_result (r : RefuseReason) : (s.refuse r).result = some (.refused r) := rfl
@[simp] theorem State.refuse_trace (r : RefuseReason) : (s.refuse r).trace = s.trace := rfl
@[simp] theorem State.refuse_sent (r : RefuseReason) : (s.refuse r).sent = s.sent := rfl
@[simp] theorem State.refuse_sink (r : RefuseReason) : (s.refuse r).sink = s.sink := rfl
@[simp] theorem State.refuse_inputs (r : RefuseReason) : (s.refuse r).inputs = s.inputs := rfl
@[simp] theorem State.refuse_answers (r : RefuseReason) : (s.refuse r).answers = s.answers := rfl
@[simp] theorem State.refuse_pins (r : RefuseReason) : (s.refuse r).pins = s.pins := rfl
@[simp] theorem State.refuse_txCount (r : RefuseReason) : (s.refuse r).txCount = s.txCount := rfl
@[simp] theorem State.refuse_pinCount (r : RefuseReason) : (s.refuse r).pinCount = s.pinCount := rfl

/-! ### State.pinPhase -/

@[simp] theorem State.pinPhase_cfg : (s.pinPhase).cfg = s.cfg := rfl
@[simp] theorem State.pinPhase_fb : (s.pinPhase).fb = s.fb := rfl
@[simp] theorem State.pinPhase_dr : (s.pinPhase).dr = s.dr := rfl
@[simp] theorem State.pinPhase_mode : (s.pinPhase).mode = s.mode := rfl
@[simp] theorem State.pinPhase_att : (s.pinPhase).att = s.att := rfl
@[simp] theorem State.pinPhase_handle : (s.pinPhase).handle = s.handle := rfl
@[simp] theorem State.pinPhase_result : (s.pinPhase).result = s.result := rfl
@[simp] theorem State.pinPhase_trace : (s.pinPhase).trace = s.trace := rfl
@[simp] theorem State.pinPhase_sent : (s.pinPhase).sent = s.sent := rfl
@[simp] theorem State.pinPhase_sink : (s.pinPhase).sink = s.sink.forget := rfl
@[simp] theorem State.pinPhase_inputs : (s.pinPhase).inputs = s.inputs := rfl
@[simp] theorem State.pinPhase_answers : (s.pinPhase).answers = s.answers := rfl
@[simp] theorem State.pinPhase_pins : (s.pinPhase).pins = s.pins.tail := rfl
@[simp] theorem State.pinPhase_txCount : (s.pinPhase).txCount = s.txCount := rfl
@[simp] theorem State.pinPhase_pinCount : (s.pinPhase).pinCount = s.pinCount + 1 := rfl

/-! ### State.foreignTraffic -/

@[simp] theorem State.foreignTraffic_cfg : (s.foreignTraffic).cfg = s.cfg := rfl
@[simp] theorem State.foreignTraffic_fb : (s.foreignTraffic).fb = s.fb := rfl
@[simp] theorem State.foreignTraffic_dr : (s.foreignTraffic).dr = s.dr := rfl
@[simp] theorem State.foreignTraffic_mode : (s.foreignTraffic).mode = s.mode := rfl
@[simp] theorem State.foreignTraffic_att : (s.foreignTraffic).att = s.att := rfl
@[simp] theorem State.foreignTraffic_handle : (s.foreignTraffic).handle = s.handle := rfl
@[simp] theorem State.foreignTraffic_result : (s.foreignTraffic).result = s.result := rfl
@[simp] theorem State.foreignTraffic_trace : (s.foreignTraffic).trace = s.trace := rfl
@[simp] theorem State.foreignTraffic_sent : (s.foreignTraffic).sent = s.sent := rfl
@[simp] theorem State.foreignTraffic_sink : (s.foreignTraffic).sink = s.sink.forget := rfl
@[simp] theorem State.foreignTraffic_inputs : (s.foreignTraffic).inputs = s.inputs := rfl
@[simp] theorem State.foreignTraffic_answers : (s.foreignTraffic).answers = s.answers := rfl
@[simp] theorem State.foreignTraffic_pins : (s.foreignTraffic).pins = s.pins := rfl
@[simp] theorem State.foreignTraffic_txCount : (s.foreignTraffic).txCount = s.txCount := rfl
@[simp] theorem State.foreignTraffic_pinCount : (s.foreignTraffic).pinCount = s.pinCount := rfl

/-! ### State.withRequest -/

@[simp] theorem State.withRequest_cfg (bs : List Byte) : (s.withRequest bs).cfg = s.cfg := rfl
@[simp] theorem State.withRequest_fb (bs : List Byte) : (s.withRequest bs).fb = s.fb := rfl
@[simp] theorem State.withRequest_dr (bs : List Byte) : (s.withRequest bs).dr = s.dr := rfl
@[simp] theorem State.withRequest_mode (bs : List Byte) : (s.withRequest bs).mode = s.mode := rfl
@[simp] theorem State.withRequest_att (bs : List Byte) : (s.withRequest bs).att = s.att := rfl
@[simp] theorem State.withRequest_handle (bs : List Byte) : (s.withRequest bs).handle = s.handle := rfl
@[simp] theorem State.withRequest_result (bs : List Byte) : (s.withRequest bs).result = s.result := rfl
@[simp] theorem State.withRequest_trace (bs : List Byte) : (s.withRequest bs).trace = s.trace := rfl
@[simp] theorem State.withRequest_sent (bs : List Byte) : (s.withRequest bs).sent = s.sent := rfl
@[simp] theorem State.withRequest_sink (bs : List Byte) : (s.withRequest bs).sink = s.sink := rfl
@[simp] theorem State.withRequest_inputs (bs : List Byte) : (s.withRequest bs).inputs = .request bs :: s.inputs := rfl
@[simp] theorem State.withRequest_answers (bs : List Byte) : (s.withRequest bs).answers = s.answers := rfl
@[simp] theorem State.withRequest_pins (bs : List Byte) : (s.withRequest bs).pins = s.pins := rfl
@[simp] theorem State.withRequest_txCount (bs : List Byte) : (s.withRequest bs).txCount = s.txCount := rfl
@[simp] theorem State.withRequest_pinCount (bs : List Byte) : (s.withRequest bs).pinCount = s.pinCount := rfl

/-! ### State.transact -/

@[simp] theorem State.transact_cfg (ch : Channel) (bs : List Byte) : (s.transact ch bs).1.cfg = s.cfg := rfl
@[simp] theorem State.transact_fb (ch : Channel) (bs : List Byte) : (s.transact ch bs).1.fb = s.fb := rfl
@[simp] theorem State.transact_dr (ch : Channel) (bs : List Byte) : (s.transact ch bs).1.dr = s.dr := rfl
@[simp] theorem State.transact_mode (ch : Channel) (bs : List Byte) : (s.transact ch bs).1.mode = s.mode := rfl
@[simp] theorem State.transact_att (ch : Channel) (bs : List Byte) : (s.transact ch bs).1.att = s.att := rfl
@[simp] theorem State.transact_handle (ch : Channel) (bs : List Byte) : (s.transact ch bs).1.handle = s.handle := rfl
@[simp] theorem State.transact_result (ch : Channel) (bs : List Byte) : (s.transact ch bs).1.result = s.result := rfl
@[simp] theorem State.transact_trace (ch : Channel) (bs : List Byte) : (s.transact ch bs).1.trace = s.trace ++ [⟨ch, bs, outcomeOf (s.answerAt 0)⟩] := rfl
@[simp] theorem State.transact_sent (ch : Channel) (bs : List Byte) : (s.transact ch bs).1.sent = s.sent := rfl
@[simp] theorem State.transact_sink (ch : Channel) (bs : List Byte) : (s.transact ch bs).1.sink = s.sink.answered ch bs (s.answerAt 0) := rfl
@[simp] theorem State.transact_inputs (ch : Channel) (bs : List Byte) : (s.transact ch bs).1.inputs = s.inputs := rfl
@[simp] theorem State.transact_answers (ch : Channel) (bs : List Byte) : (s.transact ch bs).1.answers = s.answers.tail := rfl
@[simp] theorem State.transact_pins (ch : Channel) (bs : List Byte) : (s.transact ch bs).1.pins = s.pins := rfl
@[simp] theorem State.transact_txCount (ch : Channel) (bs : List Byte) : (s.transact ch bs).1.txCount = s.txCount + 1 := rfl
@[simp] theorem State.transact_pinCount (ch : Channel) (bs : List Byte) : (s.transact ch bs).1.pinCount = s.pinCount := rfl

@[simp] theorem State.transact_outcome (ch : Channel) (bs : List Byte) :
    (s.transact ch bs).2 = outcomeOf (s.answerAt 0) := rfl

end Sys2Proof.Machine
end

