-- ==== Sys2Proof/Laws/Ops.lean ====
section
/-! SUPPORT. For each shared operation, once, everything it can do: guards, ranges, transactions, sequences of
transactions, the flush loop, SET_PIXEL, and that exec always answers a next state. -/

namespace Sys2Proof.Machine

/-! ### Guards and endings -/

theorem State.inMode_of_eq {m : Mode} {s : State} (k : State → State) (h : s.mode = m) : s.inMode m k = k s :=
  if_pos h

theorem State.inMode_of_ne {m : Mode} {s : State} (k : State → State) (h : s.mode ≠ m) :
    s.inMode m k = s.refuse .wrongMode := if_neg h

theorem State.whenAttached_of_attached {s : State} (k : State → State) (h : s.att = .attached) :
    s.whenAttached k = k s := if_pos h

theorem State.whenAttached_of_detached {s : State} (k : State → State) (h : s.att = .detached) :
    s.whenAttached k = s.refuse .notAttached := if_neg (by simp [h])

theorem State.whenDetached_of_detached {s : State} (k : State → State) (h : s.att = .detached) :
    s.whenDetached k = k s := if_pos h

theorem State.whenDetached_of_attached {s : State} (k : State → State) (h : s.att = .attached) :
    s.whenDetached k = s.refuse .alreadyAttached := if_neg (by simp [h])

@[simp] theorem finish_ok (s : State) : finish (s, .ok) = s.complete .none := rfl

@[simp] theorem finish_err (s : State) (t : TransportError) :
    finish (s, .err t) = s.raise (.communicationError t) := rfl

/-- A sequence of transactions ends in Ok or in the error of its last transaction; only the result changes. -/
theorem finish_cases (r : State × TxOutcome) :
    (r.2 = .ok ∧ finish r = r.1.complete .none) ∨
      ∃ t, r.2 = .err t ∧ finish r = r.1.raise (.communicationError t) := by
  obtain ⟨s, _ | t⟩ := r
  · exact .inl ⟨rfl, rfl⟩
  · exact .inr ⟨t, rfl, rfl⟩

/-! ### Ranges -/

theorem State.range_setRange (p q : Nat) (r : DirtyRange) (s : State) :
    (s.setRange p r).range q = if q = p ∧ p < s.dr.length then r else s.range q := by
  simp only [State.range, State.setRange_dr, List.getD_eq_getElem?_getD, List.getElem?_set]
  by_cases hpq : p = q
  · subst hpq
    by_cases hlt : p < s.dr.length
    · simp [hlt]
    · simp [hlt]
  · simp [hpq, Ne.symm hpq]

theorem State.range_setAllRanges (p : Nat) (s : State) :
    s.setAllRanges.range p = if p < s.cfg.pages then fullRange s.cfg else .clean := by
  simp only [State.range, State.setAllRanges_dr, List.getD_eq_getElem?_getD, List.getElem?_replicate]
  split <;> rfl

@[simp] theorem DirtyRange.covers_clean (c : Nat) : DirtyRange.clean.covers c = false := rfl

@[simp] theorem DirtyRange.covers_dirty (c s e : Nat) : (DirtyRange.dirty s e).covers c = true ↔ s ≤ c ∧ c < e := by
  simp [DirtyRange.covers]

@[simp] theorem DirtyRange.wf_clean (w : Nat) : DirtyRange.clean.wf w = true := rfl

@[simp] theorem DirtyRange.wf_dirty (w s e : Nat) : (DirtyRange.dirty s e).wf w = true ↔ s < e ∧ e ≤ w := by
  simp [DirtyRange.wf]

/-- What a union covers: what was covered, and the column (and the columns between). -/
theorem DirtyRange.include_covers {x c : Nat} {r : DirtyRange} (h : r.covers c = true) :
    (r.include x).covers c = true := by
  cases r with
  | clean => simp at h
  | dirty s e =>
    simp only [DirtyRange.include, DirtyRange.covers_dirty] at *
    omega

theorem DirtyRange.include_covers_self (x : Nat) (r : DirtyRange) : (r.include x).covers x = true := by
  cases r <;> simp only [DirtyRange.include, DirtyRange.covers_dirty] <;> omega

theorem DirtyRange.include_wf {x w : Nat} {r : DirtyRange} (hx : x < w) (h : r.wf w = true) :
    (r.include x).wf w = true := by
  cases r with
  | clean => simp only [DirtyRange.include, DirtyRange.wf_dirty]; omega
  | dirty s e =>
    simp only [DirtyRange.include, DirtyRange.wf_dirty] at *
    omega

/-- FLUSH sends exactly the present ranges that R23 admits. -/
theorem DirtyRange.burst_eq_some {w a b : Nat} {r : DirtyRange} :
    r.burst w = some (a, b) ↔ r = .dirty a b ∧ a < b ∧ b ≤ w := by
  cases r with
  | clean => simp [DirtyRange.burst]
  | dirty s e =>
    simp only [DirtyRange.burst]
    constructor
    · intro h
      split at h
      · obtain ⟨rfl, rfl⟩ := Prod.mk.inj (Option.some.inj h)
        exact ⟨rfl, by omega, by omega⟩
      · simp at h
    · rintro ⟨h, hab, hb⟩
      obtain ⟨rfl, rfl⟩ := DirtyRange.dirty.inj h
      exact if_pos ⟨hab, by omega, hb⟩

/-! ### Transactions -/

/-- A transaction uses up one answer: the next one is the second. -/
theorem State.answerAt_transact (k : Nat) (ch : Channel) (bs : List Byte) (s : State) :
    (s.transact ch bs).1.answerAt k = s.answerAt (k + 1) := by
  simp only [State.answerAt, State.transact_answers, State.transact_txCount]
  rw [show s.answers.tail[k]? = s.answers[k + 1]? by cases s.answers <;> simp]
  split
  · rfl
  · rw [show s.txCount + 1 + k = s.txCount + (k + 1) by omega]

/-- Only the answers' list and its counter are looked at. -/
theorem State.answerAt_congr {s t : State} (ha : t.answers = s.answers) (hn : t.txCount = s.txCount) (k : Nat) :
    t.answerAt k = s.answerAt k := by
  simp only [State.answerAt, ha, hn]

theorem State.transact_of_ok {s : State} (ch : Channel) (bs : List Byte) (h : s.answerAt 0 = .ok) :
    s.transact ch bs =
      ({ s with answers := s.answers.tail, txCount := s.txCount + 1, trace := s.trace ++ [⟨ch, bs, .ok⟩],
                sink := s.sink.receive ch bs }, .ok) := by
  simp only [State.transact, h, outcomeOf, Sink.answered]

theorem State.transact_of_err {s : State} {t : TransportError} {n : Nat} (ch : Channel) (bs : List Byte)
    (h : s.answerAt 0 = .err t n) :
    s.transact ch bs =
      ({ s with answers := s.answers.tail, txCount := s.txCount + 1, trace := s.trace ++ [⟨ch, bs, .err t⟩],
                sink := (s.sink.receive ch (bs.take n)).afterFailure }, .err t) := by
  simp only [State.transact, h, outcomeOf, Sink.answered]

/-! ### Sequences of transactions -/

@[simp] theorem andThen_ok (k : State → State × TxOutcome) (s : State) : andThen k (s, .ok) = k s := rfl

@[simp] theorem andThen_err (k : State → State × TxOutcome) (s : State) (t : TransportError) :
    andThen k (s, .err t) = (s, .err t) := rfl

/-- A sequence ends Ok exactly if its first part does and then its second. -/
theorem andThen_eq_ok {k : State → State × TxOutcome} {r : State × TxOutcome} {t : State} :
    andThen k r = (t, .ok) ↔ ∃ u, r = (u, .ok) ∧ k u = (t, .ok) := by
  obtain ⟨u, _ | e⟩ := r <;> simp

/-- A relation between states that holds across each part of a sequence holds across the sequence. -/
theorem andThen_rel {R : State → State → Prop} (trans : ∀ a b c, R a b → R b c → R a c)
    {k : State → State × TxOutcome} {s : State} {r : State × TxOutcome} (hr : R s r.1)
    (hk : r.2 = .ok → R r.1 (k r.1).1) : R s (andThen k r).1 := by
  obtain ⟨u, _ | e⟩ := r
  · exact trans _ _ _ hr (hk rfl)
  · exact hr

/-- What holds across every transaction holds across a list of commands. -/
theorem State.sendCommands_rel {R : State → State → Prop} (refl : ∀ a, R a a)
    (trans : ∀ a b c, R a b → R b c → R a c)
    (tx : ∀ s c, R s (s.transact .command (encodeCommand c)).1) (cs : List Command) (s : State) :
    R s (State.sendCommands cs s).1 := by
  induction cs generalizing s with
  | nil => exact refl s
  | cons c cs ih =>
    show R s (andThen (State.sendCommands cs) (s.sendCommand c)).1
    exact andThen_rel (k := State.sendCommands cs) trans (tx s c) fun _ => ih _

/-- What holds across every transaction, every note of SENT and every range made clean holds across the flush of a page. -/
theorem State.flushPage_rel {R : State → State → Prop} (refl : ∀ a, R a a)
    (trans : ∀ a b c, R a b → R b c → R a c)
    (tx : ∀ s ch bs, R s (s.transact ch bs).1) (note : ∀ s p c bs, R s (s.noteSent p c bs))
    (clear : ∀ s p, R s (s.setRange p .clean)) (p : Nat) (s : State) : R s (s.flushPage p).1 := by
  unfold State.flushPage
  split
  · exact refl s
  · rename_i start stop _
    have burst : ∀ u : State, R u (u.sendBurst p start stop).1 := fun u => by
      show R u (andThen (fun t => (t.noteSent p start (u.fbRun p start (stop - start)), .ok))
        (u.transact .data (u.fbRun p start (stop - start)))).1
      exact andThen_rel (k := fun t => (t.noteSent p start (u.fbRun p start (stop - start)), .ok)) trans
        (tx ..) fun _ => note ..
    refine andThen_rel (k := fun s => (s.setRange p .clean, .ok)) trans
      (andThen_rel (k := State.sendBurst p start stop) trans
        (andThen_rel (k := State.sendCommand (.setColumn (columnAddr s.cfg start))) trans ?_ fun _ => ?_)
        fun _ => burst _) fun _ => ?_
    · exact tx s .command _
    · exact tx _ .command _
    · exact clear _ p

/-- The same across the whole flush loop. -/
theorem State.flushFrom_rel {R : State → State → Prop} (refl : ∀ a, R a a)
    (trans : ∀ a b c, R a b → R b c → R a c)
    (tx : ∀ s ch bs, R s (s.transact ch bs).1) (note : ∀ s p c bs, R s (s.noteSent p c bs))
    (clear : ∀ s p, R s (s.setRange p .clean)) (n fp : Nat) (s : State) : R s (State.flushFrom n fp s).1 := by
  induction n generalizing fp s with
  | zero => exact refl s
  | succ n ih =>
    show R s (andThen (State.flushFrom n (fp + 1)) (s.flushPage fp)).1
    exact andThen_rel (k := State.flushFrom n (fp + 1)) trans (State.flushPage_rel refl trans tx note clear fp s) fun _ => ih (fp + 1) _

/-- All that no transaction, no note of SENT and no cleared range touches. -/
structure State.SameBlock (s t : State) : Prop where
  cfg : t.cfg = s.cfg
  fb : t.fb = s.fb
  mode : t.mode = s.mode
  att : t.att = s.att
  handle : t.handle = s.handle
  result : t.result = s.result
  inputs : t.inputs = s.inputs
  pins : t.pins = s.pins
  pinCount : t.pinCount = s.pinCount
  pages : t.dr.length = s.dr.length

theorem State.SameBlock.refl (s : State) : s.SameBlock s :=
  ⟨rfl, rfl, rfl, rfl, rfl, rfl, rfl, rfl, rfl, rfl⟩

theorem State.SameBlock.trans {s t u : State} (h : s.SameBlock t) (k : t.SameBlock u) : s.SameBlock u :=
  ⟨k.cfg.trans h.cfg, k.fb.trans h.fb, k.mode.trans h.mode, k.att.trans h.att, k.handle.trans h.handle,
    k.result.trans h.result, k.inputs.trans h.inputs, k.pins.trans h.pins, k.pinCount.trans h.pinCount,
    k.pages.trans h.pages⟩

/-- The frame of the flush loop. -/
theorem State.flushFrom_sameBlock (n fp : Nat) (s : State) : s.SameBlock (State.flushFrom n fp s).1 :=
  State.flushFrom_rel State.SameBlock.refl (fun _ _ _ => State.SameBlock.trans)
    (fun _ _ _ => ⟨rfl, rfl, rfl, rfl, rfl, rfl, rfl, rfl, rfl, rfl⟩)
    (fun _ _ _ _ => ⟨rfl, rfl, rfl, rfl, rfl, rfl, rfl, rfl, rfl, rfl⟩)
    (fun _ _ => ⟨rfl, rfl, rfl, rfl, rfl, rfl, rfl, rfl, rfl, by simp⟩) n fp s

/-- The frame of a list of commands; the ranges and SENT stay too. -/
theorem State.sendCommands_sameBlock (cs : List Command) (s : State) :
    s.SameBlock (State.sendCommands cs s).1 ∧ (State.sendCommands cs s).1.dr = s.dr ∧
      (State.sendCommands cs s).1.sent = s.sent :=
  State.sendCommands_rel (R := fun s t => s.SameBlock t ∧ t.dr = s.dr ∧ t.sent = s.sent)
    (fun s => ⟨.refl s, rfl, rfl⟩)
    (fun _ _ _ h k => ⟨h.1.trans k.1, k.2.1.trans h.2.1, k.2.2.trans h.2.2⟩)
    (fun _ _ => ⟨⟨rfl, rfl, rfl, rfl, rfl, rfl, rfl, rfl, rfl, rfl⟩, rfl, rfl⟩) cs s

/-! ### SET_PIXEL -/

/-- All that SET_PIXEL can do after its guard: nothing, or one byte of the framebuffer changes and its page's range takes
the union with its column. -/
theorem State.setPixel_cases (x y : Int) (color : Color) (s : State) :
    s.setPixel x y color = s ∨
      (inBounds s.cfg x y = true ∧
        paint (rowBit y) color (s.fbRead (pageOf y) (columnOf x)) ≠ s.fbRead (pageOf y) (columnOf x) ∧
        s.setPixel x y color =
          (s.fbWrite (pageOf y) (columnOf x) (paint (rowBit y) color (s.fbRead (pageOf y) (columnOf x)))).setRange
            (pageOf y) ((s.range (pageOf y)).include (columnOf x))) := by
  unfold State.setPixel
  split
  · by_cases h : paint (rowBit y) color (s.fbRead (pageOf y) (columnOf x)) = s.fbRead (pageOf y) (columnOf x)
    · exact .inl (by simp [h])
    · exact .inr ⟨‹_›, h, by simp [h]⟩
  · exact .inl rfl

/-- The bounds check on natural numbers (R140). -/
theorem inBounds_iff (cfg : DisplaySpecs) (x y : Int) :
    inBounds cfg x y = true ↔ 0 ≤ x ∧ x < cfg.width ∧ 0 ≤ y ∧ y < cfg.height := by
  simp [inBounds, and_assoc]

/-- Distinct cells have distinct addresses (R50, R51). -/
theorem cellAddr_inj {cfg : DisplaySpecs} {p q c d : Nat} (hc : c < cfg.width) (hd : d < cfg.width)
    (h : cellAddr cfg p c = cellAddr cfg q d) : p = q ∧ c = d := by
  simp only [cellAddr] at h
  have hw : 0 < cfg.width := by omega
  have hp : (p * cfg.width + c) / cfg.width = p := by
    rw [Nat.mul_comm, Nat.mul_add_div hw, Nat.div_eq_of_lt hc, Nat.add_zero]
  have hq : (q * cfg.width + d) / cfg.width = q := by
    rw [Nat.mul_comm, Nat.mul_add_div hw, Nat.div_eq_of_lt hd, Nat.add_zero]
  have hpq : p = q := by rw [← hp, h, hq]
  subst hpq
  exact ⟨rfl, by omega⟩

/-- Every cell's address lies inside the PAGES * WIDTH bytes (R50). -/
theorem cellAddr_lt {cfg : DisplaySpecs} {p c : Nat} (hp : p < cfg.pages) (hc : c < cfg.width) :
    cellAddr cfg p c < cfg.pages * cfg.width := by
  simp only [cellAddr]
  calc p * cfg.width + c < p * cfg.width + cfg.width := by omega
    _ = (p + 1) * cfg.width := by ring
    _ ≤ cfg.pages * cfg.width := Nat.mul_le_mul_right _ hp

/-! ### exec -/

/-- Every operation runs to completion: exec answers a next state for every instruction and state (R12, R55). -/
theorem exec_answers_next (i : Instr) (s : State) : ∃ t, exec i s = .next t := by
  cases i <;> exact ⟨_, rfl⟩

end Sys2Proof.Machine
end

