-- ==== Sys2Proof/Laws/PerInstr.lean ====
section
/-! SUPPORT. Statements for every instruction, one lemma per constructor: the length of a request. -/

namespace Sys2Proof.Laws

/-- A request has at least one byte and at most the port's. -/
def RequestLength.Statement (i : Instr) : Prop := 1 ≤ (encode i).length ∧ (encode i).length ≤ maxRequestBytes

/-- Every command is one or two bytes (R81). -/
theorem encodeCommand_length (c : Command) :
    1 ≤ (encodeCommand c).length ∧ (encodeCommand c).length ≤ 2 := by
  unfold encodeCommand
  split <;> exact ⟨by simp, by simp⟩

theorem encodeCommand_length_le_port (c : Command) :
    1 ≤ (encodeCommand c).length ∧ (encodeCommand c).length ≤ maxRequestBytes :=
  ⟨(encodeCommand_length c).1, (encodeCommand_length c).2.trans (by decide)⟩

namespace RequestLength

theorem displayOnOff (a : Bool) : Statement (.displayOnOff a) := encodeCommand_length_le_port (.displayOnOff a)
theorem setStartLine (p : Byte) : Statement (.setStartLine p) := encodeCommand_length_le_port (.setStartLine p)
theorem setPage (p : Byte) : Statement (.setPage p) := encodeCommand_length_le_port (.setPage p)
theorem setColumn (p : Byte) : Statement (.setColumn p) := encodeCommand_length_le_port (.setColumn p)
theorem adcSelect (a : Bool) : Statement (.adcSelect a) := encodeCommand_length_le_port (.adcSelect a)
theorem setNormalReverse (a : Bool) : Statement (.setNormalReverse a) := encodeCommand_length_le_port (.setNormalReverse a)
theorem setAllPointsOn (a : Bool) : Statement (.setAllPointsOn a) := encodeCommand_length_le_port (.setAllPointsOn a)
theorem setLcdBias (a : Bool) : Statement (.setLcdBias a) := encodeCommand_length_le_port (.setLcdBias a)
theorem setCommonOutputMode (a : Bool) : Statement (.setCommonOutputMode a) := encodeCommand_length_le_port (.setCommonOutputMode a)
theorem setPowerControl (a b c : Bool) : Statement (.setPowerControl a b c) := encodeCommand_length_le_port (.setPowerControl a b c)
theorem setVoltageRegulatorRatio (p : Byte) : Statement (.setVoltageRegulatorRatio p) := encodeCommand_length_le_port (.setVoltageRegulatorRatio p)
theorem setElectronicVolume (p : Byte) : Statement (.setElectronicVolume p) := encodeCommand_length_le_port (.setElectronicVolume p)
theorem setStaticIndicatorNone : Statement .setStaticIndicatorNone := encodeCommand_length_le_port (.setStaticIndicator none)
theorem setStaticIndicatorSome (m : IndicatorMode) : Statement (.setStaticIndicatorSome m) := encodeCommand_length_le_port (.setStaticIndicator (some m))
theorem setBoosterRatio (r : BoosterRatio) : Statement (.setBoosterRatio r) := encodeCommand_length_le_port (.setBoosterRatio r)
theorem sendCmd (c : Command) : Statement (.sendCmd c) := ⟨by simp [encode], by simp [encode, maxRequestBytes]⟩
theorem setPixel (x y : Int) (c : Color) : Statement (.setPixel x y c) := ⟨by simp [encode], by simp [encode, coordBytes, maxRequestBytes]⟩
theorem flush : Statement .flush := ⟨by simp [encode], by simp [encode, maxRequestBytes]⟩
theorem markAllDirty : Statement .markAllDirty := ⟨by simp [encode], by simp [encode, maxRequestBytes]⟩
theorem detach : Statement .detach := ⟨by simp [encode], by simp [encode, maxRequestBytes]⟩
theorem attach (h : Handle) : Statement (.attach h) := ⟨by simp [encode], by simp [encode, maxRequestBytes]⟩
theorem getSize : Statement .getSize := ⟨by simp [encode], by simp [encode, maxRequestBytes]⟩
theorem enterRaw : Statement .enterRaw := ⟨by simp [encode], by simp [encode, maxRequestBytes]⟩
theorem enterGfx : Statement .enterGfx := ⟨by simp [encode], by simp [encode, maxRequestBytes]⟩
theorem resetInit : Statement .resetInit := ⟨by simp [encode], by simp [encode, maxRequestBytes]⟩

end RequestLength

end Sys2Proof.Laws
end

