-- ==== Sys2Proof/Laws/Sink.lean ====
section
/-! SUPPORT. The laws of the reference sink: what each of its operations does to each of its parts. -/

namespace Sys2Proof.Machine

variable (k : Sink)

/-! ### Fields -/

@[simp] theorem Sink.setColumn_page (col : Byte) : (k.setColumn col).page = k.page := rfl
@[simp] theorem Sink.setColumn_ram (col : Byte) : (k.setColumn col).ram = k.ram := rfl
@[simp] theorem Sink.setColumn_regs (col : Byte) : (k.setColumn col).regs = k.regs := rfl
@[simp] theorem Sink.setColumn_reader (col : Byte) : (k.setColumn col).reader = k.reader := rfl
@[simp] theorem Sink.setColumn_draws (col : Byte) : (k.setColumn col).draws = k.draws := rfl

/-- The column register reads as it was written. -/
@[simp] theorem Sink.setColumn_column (col : Byte) : (k.setColumn col).column = col := by
  revert col
  have halves : ∀ col : Byte, (col.extractLsb' 4 4 ++ col.extractLsb' 0 4 : Byte) = col := by decide
  exact halves

@[simp] theorem Sink.forgetRam_page : k.forgetRam.page = Config.freePage k.draws := rfl
@[simp] theorem Sink.forgetRam_column : k.forgetRam.column = Config.freeColumn k.draws := Sink.setColumn_column ..
@[simp] theorem Sink.forgetRam_ram : k.forgetRam.ram = [] := rfl
@[simp] theorem Sink.forgetRam_regs : k.forgetRam.regs = k.regs := rfl
@[simp] theorem Sink.forgetRam_reader : k.forgetRam.reader = k.reader := rfl
@[simp] theorem Sink.forgetRam_draws : k.forgetRam.draws = k.draws + 1 := rfl

@[simp] theorem Sink.forget_page : k.forget.page = Config.freePage k.draws := rfl
@[simp] theorem Sink.forget_column : k.forget.column = Config.freeColumn k.draws := Sink.forgetRam_column k
@[simp] theorem Sink.forget_ram : k.forget.ram = [] := rfl
@[simp] theorem Sink.forget_regs : k.forget.regs = Config.freeRegs k.draws := rfl
@[simp] theorem Sink.forget_reader : k.forget.reader = k.reader := rfl
@[simp] theorem Sink.forget_draws : k.forget.draws = k.draws + 1 := rfl

/-! ### A data byte -/

variable (d : Byte)

@[simp] theorem Sink.dataByte_page : (k.dataByte d).page = k.page := by
  unfold Sink.dataByte; dsimp only; split <;> rfl
@[simp] theorem Sink.dataByte_ram :
    (k.dataByte d).ram = Memory.put (sinkAddr k.page k.column) d k.ram := by
  unfold Sink.dataByte; dsimp only; split <;> rfl
@[simp] theorem Sink.dataByte_regs : (k.dataByte d).regs = k.regs := by
  unfold Sink.dataByte; dsimp only; split <;> rfl
@[simp] theorem Sink.dataByte_reader : (k.dataByte d).reader = k.reader := by
  unfold Sink.dataByte; dsimp only; split <;> rfl

/-- Up to the last column the column register advances by one (R62). -/
theorem Sink.dataByte_column {k : Sink} (d : Byte) (h : k.column ≠ 0xFF) :
    (k.dataByte d).column = k.column + 1 := by
  unfold Sink.dataByte
  dsimp only
  rw [if_neg h]
  exact Sink.setColumn_column ..

/-- Distinct cells of the sink's RAM have distinct addresses. -/
theorem sinkAddr_inj {page q : BitVec 4} {col c : Byte} (h : sinkAddr page col = sinkAddr q c) : page = q ∧ col = c := by
  have hc := col.isLt
  have hd := c.isLt
  simp only [sinkAddr] at h
  exact ⟨BitVec.eq_of_toNat_eq (by omega), BitVec.eq_of_toNat_eq (by omega)⟩

/-- Every operation of the sink on a byte keeps its RAM's rising order. -/
theorem Sink.dataByte_sorted {k : Sink} (h : Memory.sorted k.ram = true) :
    Memory.sorted (k.dataByte d).ram = true := by
  rw [Sink.dataByte_ram]
  exact Memory.sorted_put _ d h

/-- A first byte leaves the RAM, or makes all of it unspecified. -/
theorem Sink.firstByte_ram (b : Byte) : (k.firstByte b).ram = k.ram ∨ (k.firstByte b).ram = [] := by
  unfold Sink.firstByte
  repeat' split
  all_goals first | exact .inl rfl | exact .inr rfl

/-- A byte that begins no command (R88) makes everything but the reader free (notes/assumptions/18.md). -/
theorem Sink.firstByte_of_neverFirst {b : Byte} (h : neverFirst b = true) : k.firstByte b = k.forget := by
  have guards : ∀ b : Byte, neverFirst b = true →
      ¬ b &&& 0xF0 = 0xB0 ∧ ¬ b &&& 0xF0 = 0x10 ∧ ¬ b &&& 0xF0 = 0x00 ∧ ¬ needsArgument b = true := by decide
  have singles : ∀ b : Byte, neverFirst b = true →
      ¬ b &&& 0xFE = 0xAE ∧ ¬ b &&& 0xC0 = 0x40 ∧ ¬ b &&& 0xFE = 0xA0 ∧ ¬ b &&& 0xFE = 0xA6 ∧ ¬ b &&& 0xFE = 0xA4 ∧
      ¬ b &&& 0xFE = 0xA2 ∧ ¬ b &&& 0xF7 = 0xC0 ∧ ¬ b &&& 0xF8 = 0x28 ∧ ¬ b &&& 0xF8 = 0x20 ∧ ¬ b = 0xAC := by decide
  obtain ⟨g1, g2, g3, g4⟩ := guards b h
  obtain ⟨s1, s2, s3, s4, s5, s6, s7, s8, s9, s10⟩ := singles b h
  rw [Sink.firstByte, if_neg g1, if_neg g2, if_neg g3, if_neg g4, SinkRegs.single, if_neg s1, if_neg s2, if_neg s3,
    if_neg s4, if_neg s5, if_neg s6, if_neg s7, if_neg s8, if_neg s9, if_neg s10, Sink.forget]

/-- Every byte of the command channel leaves the RAM, or makes all of it unspecified. -/
theorem Sink.commandByte_ram (b : Byte) : (k.commandByte b).ram = k.ram ∨ (k.commandByte b).ram = [] := by
  unfold Sink.commandByte
  split
  · exact Sink.firstByte_ram k b
  · exact .inr rfl

/-- A failed transaction changes nothing of the sink but its reader (R209). -/
theorem Sink.afterFailure_ram : k.afterFailure.ram = k.ram := by
  unfold Sink.afterFailure; split <;> rfl

/-- What reached the sink keeps its RAM's rising order. -/
theorem Sink.receive_sorted (ch : Channel) (bs : List Byte) {k : Sink} (h : Memory.sorted k.ram = true) :
    Memory.sorted (k.receive ch bs).ram = true := by
  cases ch with
  | command =>
    show Memory.sorted (bs.foldl (fun k b => k.commandByte b) k).ram = true
    induction bs generalizing k with
    | nil => exact h
    | cons b bs ih =>
      refine ih (k := k.commandByte b) ?_
      rcases Sink.commandByte_ram k b with hb | hb <;> rw [hb]
      exacts [h, rfl]
  | data =>
    show Memory.sorted (bs.foldl (fun k b => k.dataByte b) k).ram = true
    induction bs generalizing k with
    | nil => exact h
    | cons b bs ih => exact ih (k := k.dataByte b) (Sink.dataByte_sorted b h)

/-- Every transaction keeps the rising order of the sink's RAM, whatever its answer. -/
theorem Sink.answered_sorted (ch : Channel) (bs : List Byte) (a : TxAnswer) {k : Sink}
    (h : Memory.sorted k.ram = true) : Memory.sorted (k.answered ch bs a).ram = true := by
  cases a with
  | ok => exact Sink.receive_sorted ch bs h
  | err t n =>
    show Memory.sorted (k.receive ch (bs.take n)).afterFailure.ram = true
    rw [Sink.afterFailure_ram]
    exact Sink.receive_sorted ch _ h

end Sys2Proof.Machine
end

