-- ==== Sys2Proof/Tests/Slice0.lean ====
section
/-! SUPPORT. The model's own tests: well-formedness smoke tests, one written word per constructor, one step per operation
on small states (expected values from the spec's encodings and 95_test_vectors.md), and a witness for every statement that
has hypotheses. -/

namespace Sys2Proof.Tests

open Sys2Proof.Machine

/-! ### Helpers -/

/-- A small configuration (made up). -/
def cfgOf (width height offset : Nat) : DisplaySpecs :=
  { Config.resetSpecs with width := width, height := height, pages := (height + 7) / 8, columnOffset := offset }

/-- A block in graphics mode with the given framebuffer cells and ranges, and a transport that answers as listed. -/
def gfx (cfg : DisplaySpecs) (fb : Memory) (dr : List DirtyRange) (answers : List TxAnswer) : State :=
  { State.fresh cfg with mode := .gfx, fb := fb, dr := dr, answers := answers }

/-- A block in raw mode. -/
def raw (answers : List TxAnswer) : State :=
  { State.fresh (cfgOf 4 12 4) with mode := .raw, answers := answers }

/-- The state after one instruction. -/
def after (i : Instr) (s : State) : State :=
  match exec i s with
  | .next t => t
  | .fault _ => s
  | .refused _ => s

/-- A transaction answered Ok. -/
def cmd (bs : List Byte) : TxEvent := ⟨.command, bs, .ok⟩

/-- A burst answered Ok. -/
def burst (bs : List Byte) : TxEvent := ⟨.data, bs, .ok⟩

/-! ### WellFormed: an ill-formed term for each check -/

theorem test_wf_refuses_start_line : (Instr.setStartLine 64).wf = false := by decide
theorem test_wf_refuses_page : (Instr.setPage 16).wf = false := by decide
theorem test_wf_refuses_ratio : (Instr.setVoltageRegulatorRatio 8).wf = false := by decide
theorem test_wf_refuses_volume : (Instr.setElectronicVolume 64).wf = false := by decide
theorem test_wf_refuses_x : (Instr.setPixel 32768 0 .on).wf = false := by decide
theorem test_wf_refuses_y : (Instr.setPixel 0 (-32769) .on).wf = false := by decide
theorem test_wf_accepts_volume : (Instr.setElectronicVolume 63).wf = true := by decide

/-! ### Decode: a word for every constructor, written bit by bit from R82 and R91 -/

theorem test_decode_displayOnOff : decodeTableWord 8 0b10101111 = some (.displayOnOff true) := by decide
theorem test_decode_setStartLine : decodeTableWord 8 0b01000101 = some (.setStartLine 5) := by decide
theorem test_decode_setPage : decodeTableWord 8 0b10110011 = some (.setPage 3) := by decide
theorem test_decode_setColumn : decodeTableWord 16 0b0001100000000011 = some (.setColumn 0x83) := by decide
theorem test_decode_adcSelect : decodeTableWord 8 0b10100001 = some (.adcSelect true) := by decide
theorem test_decode_setNormalReverse : decodeTableWord 8 0b10100110 = some (.setNormalReverse false) := by decide
theorem test_decode_setAllPointsOn : decodeTableWord 8 0b10100101 = some (.setAllPointsOn true) := by decide
theorem test_decode_setLcdBias : decodeTableWord 8 0b10100010 = some (.setLcdBias false) := by decide
theorem test_decode_setCommonOutputMode : decodeTableWord 8 0b11001000 = some (.setCommonOutputMode true) := by decide
theorem test_decode_setPowerControl : decodeTableWord 8 0b00101110 = some (.setPowerControl true true false) := by
  decide
theorem test_decode_setVoltageRegulatorRatio : decodeTableWord 8 0b00100101 = some (.setVoltageRegulatorRatio 5) := by
  decide
theorem test_decode_setElectronicVolume : decodeTableWord 16 0b1000000100101000 = some (.setElectronicVolume 0x28) := by
  decide
theorem test_decode_setStaticIndicatorNone : decodeTableWord 8 0b10101100 = some .setStaticIndicatorNone := by decide
theorem test_decode_setStaticIndicatorSome :
    decodeTableWord 16 0b1010110100000010 = some (.setStaticIndicatorSome .blinkFast) := by decide
theorem test_decode_setBoosterRatio : decodeTableWord 16 0b1111100000000011 = some (.setBoosterRatio .stepUp6x) := by
  decide
theorem test_decode_booster_10_is_refused : decodeTableWord 16 0b1111100000000010 = none := by decide
theorem test_decode_sendCmd : decode [0x1, 2, 0xF0] = .ok (.sendCmd (.setPage 0xF0), []) := by decide
theorem test_decode_setPixel : decode [0x2, 0xFF, 0xFF, 0x00, 0x0A, 1] = .ok (.setPixel (-1) 10 .on, []) := by decide
theorem test_decode_flush : decodeTableWord 8 0b0011 = some .flush := by decide
theorem test_decode_markAllDirty : decodeTableWord 8 0b0100 = some .markAllDirty := by decide
theorem test_decode_detach : decodeTableWord 8 0b0101 = some .detach := by decide
theorem test_decode_attach : decode [0x6, 7] = .ok (.attach 7, []) := by decide
theorem test_decode_getSize : decodeTableWord 8 0b0111 = some .getSize := by decide
theorem test_decode_enterRaw : decodeTableWord 8 0b1000 = some .enterRaw := by decide
theorem test_decode_enterGfx : decodeTableWord 8 0b1001 = some .enterGfx := by decide
theorem test_decode_resetInit : decodeTableWord 8 0b1010 = some .resetInit := by decide
theorem test_decode_reserved : decode [0xB] = .error (.reservedOp 0xB) := by decide
theorem test_decode_no_command : decode [0x30] = .error (.noCommand 0x30) := by decide
theorem test_encode_setPixel : encode (.setPixel 5 10 .on) = [0x2, 0, 5, 0, 10, 1] := by decide

/-! ### The codec: 95_test_vectors.md 2.1 to 2.4 -/

theorem test_displayOnOff : (after (.displayOnOff false) State.reset).result = some (.ok (.bytes [0xAE])) := by decide
theorem test_setStartLine : (after (.setStartLine 0xC5) State.reset).result = some (.ok (.bytes [0x45])) := by decide
theorem test_setPage : (after (.setPage 0xF0) State.reset).result = some (.ok (.bytes [0xB0])) := by decide
theorem test_setColumn : (after (.setColumn 0x10) State.reset).result = some (.ok (.bytes [0x11, 0x00])) := by decide
theorem test_adcSelect : (after (.adcSelect true) State.reset).result = some (.ok (.bytes [0xA1])) := by decide
theorem test_setNormalReverse : (after (.setNormalReverse true) State.reset).result = some (.ok (.bytes [0xA7])) := by
  decide
theorem test_setAllPointsOn : (after (.setAllPointsOn false) State.reset).result = some (.ok (.bytes [0xA4])) := by
  decide
theorem test_setLcdBias : (after (.setLcdBias true) State.reset).result = some (.ok (.bytes [0xA3])) := by decide
theorem test_setCommonOutputMode :
    (after (.setCommonOutputMode true) State.reset).result = some (.ok (.bytes [0xC8])) := by decide
theorem test_setPowerControl :
    (after (.setPowerControl true false false) State.reset).result = some (.ok (.bytes [0x2C])) := by decide
theorem test_setVoltageRegulatorRatio :
    (after (.setVoltageRegulatorRatio 8) State.reset).result = some (.ok (.bytes [0x20])) := by decide
theorem test_setElectronicVolume :
    (after (.setElectronicVolume 0xC5) State.reset).result = some (.ok (.bytes [0x81, 0x05])) := by decide
theorem test_setStaticIndicatorNone :
    (after .setStaticIndicatorNone State.reset).result = some (.ok (.bytes [0xAC])) := by decide
theorem test_setStaticIndicatorSome :
    (after (.setStaticIndicatorSome .off) State.reset).result = some (.ok (.bytes [0xAD, 0x00])) := by decide
theorem test_setBoosterRatio :
    (after (.setBoosterRatio .stepUp6x) State.reset).result = some (.ok (.bytes [0xF8, 0x03])) := by decide

/-! ### Host operations: 95_test_vectors.md 2.5 to 2.7 -/

/-- V-M7: a failing SEND_CMD, no byte received. -/
theorem test_sendCmd_error :
    (after (.sendCmd (.setElectronicVolume 0x20)) (raw [.err 9 0])).trace = [⟨.command, [0x81, 0x20], .err 9⟩] := by
  decide

/-- V-M15: no offset outside FLUSH. -/
theorem test_sendCmd_no_offset : (after (.sendCmd (.setColumn 5)) (raw [.ok])).trace = [cmd [0x10, 0x05]] := by decide

/-- V-PB13: the union extends `start` only. -/
theorem test_setPixel_union :
    (after (.setPixel 2 8 .on) (gfx (cfgOf 128 64 0) [] (.clean :: .dirty 5 21 :: List.replicate 6 .clean) [])).dr =
      .clean :: .dirty 2 21 :: List.replicate 6 .clean := by decide

/-- V-PB16: clearing keeps the other seven bits. -/
theorem test_setPixel_clear :
    (after (.setPixel 9 3 .off) (gfx (cfgOf 128 64 0) [(9, 0xFF)] (List.replicate 8 .clean) [])).fb = [(9, 0xF7)] := by
  decide

/-- V-PB20: `y = HEIGHT` is out although the byte has a bit for it. -/
theorem test_setPixel_beyond_height :
    (after (.setPixel 0 12 .on) (gfx (cfgOf 4 12 0) [] [.clean, .clean] [])).dr = [.clean, .clean] := by decide

/-- V-FL4: column 4 + 127 = 0x83. -/
theorem test_flush_offset :
    (after .flush (gfx (cfgOf 128 64 4) [(7 * 128 + 127, 0x80)] (List.replicate 7 .clean ++ [.dirty 127 128])
      [.ok, .ok, .ok])).trace = [cmd [0xB7], cmd [0x18, 0x03], burst [0x80]] := by decide

/-- V-FL7: the second dirty page fails at its SetColumn, after one byte of it. -/
theorem test_flush_error :
    (after .flush (gfx (cfgOf 12 24 0) [(0, 0x01), (34, 0xAA), (35, 0x55)] [.dirty 0 1, .clean, .dirty 10 12]
      [.ok, .ok, .ok, .ok, .err 5 1])).dr = [.clean, .clean, .dirty 10 12] := by decide

/-- V-PB24, smaller: R144's example. -/
theorem test_markAllDirty :
    (after .markAllDirty (gfx (cfgOf 4 16 0) [] [.clean, .dirty 1 2] [])).dr = [.dirty 0 4, .dirty 0 4] := by decide

/-- V-PB23: not 8 * PAGES. -/
theorem test_getSize : (after .getSize (gfx (cfgOf 4 12 0) [] [] [])).result = some (.ok (.size 4 12)) := by decide

/-- V-M9, V-M22: DETACH, and FLUSH refused afterwards. -/
theorem test_detach : (after .detach (gfx (cfgOf 4 12 0) [] [] [])).att = .detached := by decide
theorem test_flush_detached :
    (after .flush (after .detach (gfx (cfgOf 4 12 0) [] [.dirty 0 1] []))).result = some (.refused .notAttached) := by
  decide

/-- V-M12: ATTACH refused while attached. -/
theorem test_attach_attached :
    (after (.attach 3) (gfx (cfgOf 4 12 0) [] [] [])).result = some (.refused .alreadyAttached) := by decide
theorem test_attach : (after (.attach 3) { gfx (cfgOf 4 12 0) [] [] [] with att := .detached }).att = .attached := by
  decide

/-- V-M1, V-M2, V-M3. -/
theorem test_enterRaw : (after .enterRaw State.reset).mode = .raw := by decide
theorem test_enterGfx : (after .enterGfx State.reset).mode = .gfx := by decide
theorem test_enterGfx_raw : (after .enterGfx (raw [])).result = some (.refused .wrongMode) := by decide

/-- V-M20: the made-up sequence of V-M19, the second transaction fails. -/
theorem test_resetInit_error :
    (State.resetInitWith [.setLcdBias false, .setElectronicVolume 0x20, .displayOnOff true]
      { State.reset with pins := [.ok], answers := [.ok, .err 7 2, .ok] }).trace =
      [cmd [0xA2], ⟨.command, [0x81, 0x20], .err 7⟩] := by decide

/-- V-M18: refused while detached. -/
theorem test_resetInit_detached :
    (after .resetInit { gfx (cfgOf 4 12 0) [] [] [] with att := .detached }).result = some (.refused .notAttached) := by
  decide

/-- R142's example, smaller: two events of one page. -/
theorem test_draw :
    (drawOp [⟨1, 10, .on⟩, ⟨3, 15, .on⟩] (gfx (cfgOf 4 16 0) [] [.clean, .clean] [])).dr = [.clean, .dirty 1 4] := by
  decide

/-- V-M14: a reserved selector. -/
theorem test_step_reserved :
    (match step (State.reset.withRequest [0xF]) with
      | .next t => t.result
      | .fault _ => none
      | .refused _ => none) = some (.refused .reservedOp) := by decide

/-- V-M16 and V-M17: refused at construction. -/
theorem test_construct_offset : ¬ (cfgOf 128 64 129).valid := by decide
theorem test_construct_pages : ¬ (cfgOf 8 136 0).valid := by decide

/-- V-FL4's burst seen by the reference sink: page 7, column 131. -/
theorem test_sink_cell :
    (after .flush (gfx (cfgOf 128 64 4) [(7 * 128 + 127, 0x80)] (List.replicate 7 .clean ++ [.dirty 127 128])
      [.ok, .ok, .ok])).sink.ram = [(7 * 256 + 131, 0x80)] := by decide

/-- R29: the electronic volume register of the sink, 6 bits. -/
theorem test_sink_volume :
    (after (.sendCmd (.setElectronicVolume 0xC5)) (raw [.ok])).sink.regs.volume = 5 := by decide

/-- R209, U13: a two-byte command cut short leaves the reader at a free value. -/
theorem test_sink_cut_short :
    ∃ n, (after (.sendCmd (.setElectronicVolume 1)) (raw [.err 0 1])).sink.reader = Config.freeReader n := ⟨_, rfl⟩

/-- U7: an argument that SetBoosterRatio never has leaves the control registers free. -/
theorem test_sink_booster_10 (k : Sink) :
    (({ k with reader := .argument 0xF8 } : Sink).commandByte 0x02).regs = Config.freeRegs k.draws := rfl

/-- R62: the column advances with each data byte. -/
theorem test_sink_column :
    let t := after .flush (gfx (cfgOf 4 8 4) [] [.dirty 1 3] [.ok, .ok, .ok])
    (t.sink.page, t.sink.colHi, t.sink.colLo) = (0, 0, 7) := by decide

/-! ### Witnesses: states and operands that meet a statement's hypotheses -/

/-- A block of one cell in graphics mode, as construction and ENTER_GFX leave it, every answer scheduled Ok. -/
def tiny : State := gfx (cfgOf 1 1 0) [] [.dirty 0 1] [.ok, .ok, .ok, .ok, .ok, .ok]

/-- Two pages, one clean with a pixel on, one dirty; Attached. -/
def half (answers : List TxAnswer) : State := gfx (cfgOf 4 12 250) [(1, 0x02), (6, 0x08)] [.clean, .dirty 1 3] answers

theorem tiny_inv : tiny.Inv where
  cfgValid := by decide
  ranges := ⟨by decide, by decide⟩
  memories := ⟨by decide, by decide, by decide, by decide⟩
  modes := fun h => absurd rfl h
  rows := fun p c b _ _ _ _ => by simp [State.fbRead, tiny, gfx, Memory.read, unlistedByte]
  sent := fun p c hp hc h => by
    obtain rfl : p = 0 := Nat.lt_one_iff.1 hp
    obtain rfl : c = 0 := Nat.lt_one_iff.1 hc
    exact absurd h (by decide)

theorem tiny_sinkInSync : tiny.sinkInSync := by
  refine ⟨fun _ => rfl, fun p c hp hc h => ?_⟩
  obtain rfl : p = 0 := Nat.lt_one_iff.1 hp
  obtain rfl : c = 0 := Nat.lt_one_iff.1 hc
  exact absurd h (by decide)

theorem tiny_sinkShowsSent : tiny.sinkShowsSent :=
  ⟨fun _ => rfl, fun p c v _ _ h => by simp [State.sentAt, tiny, gfx, State.fresh] at h⟩

theorem witness_FirstByteNamesTheRow :
    (encodeCommand (.setPage 1)).head? = (encodeCommand (.setPage 17)).head? := by decide

theorem witness_DecodeOfEncode : (Instr.setPixel (-32768) 32767 .off).wf = true := by decide

theorem witness_StepRunsTheDecodedRequest :
    (tiny.withRequest [0x3]).cfg.valid ∧ (tiny.withRequest [0x3]).inputs = .request [0x3] :: [] ∧
      decode [0x3] = .ok (.flush, []) := by decide

theorem witness_StepRunsTheFetchWord : tiny.cfg.valid ∧ decodeTableWord 16 0x1803 = some (.setColumn 0x83) := by decide

theorem witness_StepWithoutAnInstruction_reserved :
    (tiny.withRequest [0xB]).cfg.valid ∧ (tiny.withRequest [0xB]).inputs = .request (0xB :: []) :: [] ∧
      (11 ≤ (0xB : Byte).toNat ∧ (0xB : Byte).toNat ≤ 15) := by decide
theorem witness_StepWithoutAnInstruction_malformed :
    (tiny.withRequest [0x3F]).cfg.valid ∧ (tiny.withRequest [0x3F]).inputs = .request (0x3F :: []) :: [] ∧
      neverFirst 0x3F = true := by decide
theorem witness_StepWithoutAnInstruction_idle : tiny.cfg.valid ∧ tiny.inputs = [] := by decide
theorem witness_StepWithoutAnInstruction_foreign :
    ({ tiny with att := .detached, inputs := [.foreign .data [1]] } : State).inputs = .foreign .data [1] :: [] ∧
      ({ tiny with att := .detached, inputs := [.foreign .data [1]] } : State).att = .detached := by decide
theorem witness_StepWithoutAnInstruction_contention :
    ({ tiny with inputs := [.foreign .data [1]] } : State).inputs = .foreign .data [1] :: [] ∧
      ({ tiny with inputs := [.foreign .data [1]] } : State).att = .attached := by decide
theorem witness_StepWithoutAnInstruction_noBlock : ¬ (State.fresh (cfgOf 0 1 0)).cfg.valid := by decide

theorem witness_SendCmdIsOneTransaction_ok : (raw [.ok]).mode = .raw ∧ (raw [.ok]).answerAt 0 = .ok := by decide
theorem witness_SendCmdIsOneTransaction_err :
    (raw [.err 9 1]).mode = .raw ∧ (raw [.err 9 1]).answerAt 0 = .err 9 1 := by decide
theorem witness_SendCmdIsOneTransaction_refused : tiny.mode ≠ .raw := by decide

theorem witness_CommandsSetTheirControlRegister : State.reset.sink.reader = .boundary := by decide

theorem witness_SetPixelPaintsOneBit_in :
    (half []).mode = .gfx ∧ 3 < (half []).cfg.width ∧ 11 < (half []).cfg.height := by decide
theorem witness_SetPixelPaintsOneBit_out :
    (half []).mode = .gfx ∧
      ¬ ((0 : Int) ≤ 4 ∧ (4 : Int) < (half []).cfg.width ∧ (0 : Int) ≤ 0 ∧ (0 : Int) < (half []).cfg.height) := by decide
theorem witness_SetPixelPaintsOneBit_refused : (raw []).mode ≠ .gfx := by decide

theorem witness_SetPixelFrame :
    exec (.setPixel 3 11 .on) (half []) = .next (after (.setPixel 3 11 .on) (half [])) := rfl
theorem witness_SetPixelIsIdempotent :
    Memory.wf (half []).fb = true ∧
      exec (.setPixel 1 1 .off) (half []) = .next (after (.setPixel 1 1 .off) (half [])) := ⟨by decide, rfl⟩
theorem witness_DrawPaintsTheLastColour :
    (half []).mode = .gfx ∧ Memory.wf (half []).fb = true ∧ 3 < (half []).cfg.width ∧ 11 < (half []).cfg.height := by decide
theorem witness_SetPixelThenReadPixels :
    (half []).mode = .gfx ∧ Memory.wf (half []).fb = true ∧ 3 < (half []).cfg.width ∧ 11 < (half []).cfg.height ∧
      0 < (half []).cfg.width ∧ 0 < (half []).cfg.height := by decide

theorem witness_FlushMakesThePlannedTransactions :
    (half [.ok, .ok, .ok]).mode = .gfx ∧ (half [.ok, .ok, .ok]).att = .attached ∧
      (half [.ok, .ok, .ok]).flushPlan.length = 3 ∧ ∀ k, k < 3 → (half [.ok, .ok, .ok]).answerAt k = .ok := by decide

theorem witness_FlushStopsAtTheFirstError :
    (half [.ok, .ok, .err 5 1]).flushPlan[2]? = some ⟨1, .data, [0x00, 0x08]⟩ ∧
      (∀ k, k < 2 → (half [.ok, .ok, .err 5 1]).answerAt k = .ok) ∧
      (half [.ok, .ok, .err 5 1]).answerAt 2 = .err 5 1 := by decide

theorem witness_FlushOkSynchronises :
    tiny.Inv ∧ tiny.mode = .gfx ∧ tiny.att = .attached ∧ exec .flush tiny = .next (after .flush tiny) ∧
      (after .flush tiny).result = some (.ok .none) :=
  ⟨tiny_inv, rfl, rfl, rfl, by decide⟩

theorem witness_FlushOkWritesTheDirtyCellsOfTheSink :
    (half [.ok, .ok, .ok]).cfg.valid ∧ (half [.ok, .ok, .ok]).rangesWf ∧
      (half [.ok, .ok, .ok]).sink.reader = .boundary ∧
      exec .flush (half [.ok, .ok, .ok]) = .next (after .flush (half [.ok, .ok, .ok])) ∧
      (after .flush (half [.ok, .ok, .ok])).result = some (.ok .none) ∧
      ((half [.ok, .ok, .ok]).range 1).covers 2 = true :=
  ⟨by decide, ⟨by decide, by decide⟩, rfl, rfl, by decide, by decide⟩

theorem witness_MarkAllDirtyThenFlushResynchronises :
    (half (List.replicate 6 .ok)).cfg.valid ∧
      exec .markAllDirty (half (List.replicate 6 .ok)) = .next (after .markAllDirty (half (List.replicate 6 .ok))) ∧
      (after .flush (after .markAllDirty (half (List.replicate 6 .ok)))).result = some (.ok .none) :=
  ⟨by decide, rfl, by decide⟩

theorem witness_SecondFlushEmitsNothing :
    (half [.ok, .ok, .ok]).rangesWf ∧ (after .flush (half [.ok, .ok, .ok])).result = some (.ok .none) :=
  ⟨⟨by decide, by decide⟩, by decide⟩

/-- As ENTER_GFX leaves a block just constructed: its result is Ok. -/
def entered : State := after .enterGfx { State.fresh (cfgOf 1 1 255) with answers := [.ok, .ok, .ok] }

theorem witness_FirstFlushSendsEveryPage :
    entered.cfg.valid ∧ entered.mode = .gfx ∧ entered.att = .attached ∧ entered.result = some (.ok .none) ∧
      entered.dr = List.replicate entered.cfg.pages (.dirty 0 entered.cfg.width) ∧ entered.fb = [] ∧
      ∀ k, k < 3 * entered.cfg.pages → entered.answerAt k = .ok := by decide

/-- A clean block of one cell whose pixel (0, 0) is off. -/
def cleanTiny : State := gfx (cfgOf 1 1 0) [] [.clean] [.ok, .ok, .ok]

theorem witness_OnePixelFlushesOneByte :
    cleanTiny.cfg.valid ∧ cleanTiny.dr = List.replicate cleanTiny.cfg.pages .clean ∧
      cleanTiny.pixel 0 0 ≠ decide (Color.on = .on) ∧
      ∀ k, k < 3 → (after (.setPixel 0 0 .on) cleanTiny).answerAt k = .ok := by decide

theorem witness_RetryBeginsAtTheFailedPage :
    (half [.ok, .ok, .err 5 1]).rangesWf ∧
      exec .flush (half [.ok, .ok, .err 5 1]) = .next (after .flush (half [.ok, .ok, .err 5 1])) :=
  ⟨⟨by decide, by decide⟩, rfl⟩

theorem witness_FlushCost :
    tiny.rangesWf ∧ exec .flush tiny = .next (after .flush tiny) ∧ (after .flush tiny).result = some (.ok .none) ∧
      tiny.dr = List.replicate tiny.cfg.pages (.dirty 0 tiny.cfg.width) :=
  ⟨⟨by decide, by decide⟩, rfl, by decide, by decide⟩

theorem witness_DataByteStoresAndAdvances :
    ({ State.reset.sink with page := 7, colHi := 15, colLo := 14 } : Sink).column ≠ 0xFF := by decide

theorem witness_modes : tiny.mode = .gfx ∧ (raw []).mode ≠ .gfx ∧ State.reset.mode = .uninit ∧ tiny.mode ≠ .uninit := by
  decide
theorem witness_attach_states :
    tiny.att = .attached ∧ ({ tiny with att := .detached } : State).att = .detached ∧
      ({ tiny with att := .detached } : State).mode = .gfx := by decide

/-- Whatever INIT_SEQUENCE is, a transport that answers Ok often enough meets the hypotheses of ResetInitSendsTheSequence. -/
theorem witness_ResetInitSendsTheSequence :
    let n := (Config.initSequence Config.resetSpecs).length
    let s : State := { State.reset with pins := [.ok], answers := List.replicate n .ok }
    s.att = .attached ∧ s.pinAnswer = .ok ∧ s.answersOk (Config.initSequence s.cfg).length := by
  refine ⟨rfl, rfl, fun k hk => ?_⟩
  have hk' : k < (Config.initSequence Config.resetSpecs).length := hk
  simp [State.answerAt, hk']

theorem witness_ResetInitStopsAtTheFirstError_pin :
    ({ State.reset with pins := [.err 3] } : State).pinAnswer = .err 3 := by decide

theorem witness_ResetInitStopsAtTheFirstError_command :
    State.reset.att = .attached ∧
      ([.setLcdBias false, .setElectronicVolume 0x20] : List Command)[1]? = some (.setElectronicVolume 0x20) ∧
      ({ State.reset with pins := [.ok], answers := [.ok, .err 7 2] } : State).pinAnswer = .ok ∧
      (∀ k, k < 1 → ({ State.reset with pins := [.ok], answers := [.ok, .err 7 2] } : State).answerAt k = .ok) ∧
      ({ State.reset with pins := [.ok], answers := [.ok, .err 7 2] } : State).answerAt 1 = .err 7 2 := by decide

theorem witness_ResetInitStopsAtTheFirstError_detached : ({ tiny with att := .detached } : State).att = .detached := by
  decide

theorem witness_ErrorsLeaveTheBlock :
    (after (.sendCmd (.displayOnOff true)) (raw [.err 9 1])).result = some (.err (.communicationError 9)) := by decide

theorem witness_ModesFollowTheTable : State.reset.mode ≠ .gfx → State.reset.att = .attached := by decide

theorem witness_OnlyFlushShrinksARange :
    tiny.rangesWf ∧ (tiny.range 0).covers 0 = true ∧ Instr.markAllDirty ≠ .flush :=
  ⟨⟨by decide, by decide⟩, by decide, by decide⟩

theorem witness_ChannelsCarryWhatTheyShould :
    burst [0x00] ∈ (after .flush tiny).trace.drop tiny.trace.length := by decide

theorem witness_OnlyTheEmittersEmit :
    (tiny.mode ≠ .gfx → tiny.att = .attached) ∧ exec .flush tiny = .next (after .flush tiny) :=
  ⟨by decide, rfl⟩

theorem witness_WritersOfEachElement :
    exec (.attach 9) { tiny with att := .detached } = .next (after (.attach 9) { tiny with att := .detached }) ∧
      (∀ x y c, Instr.attach 9 ≠ .setPixel x y c) ∧ Instr.attach 9 ≠ .flush ∧ Instr.attach 9 ≠ .markAllDirty ∧
      tiny.dr.length = tiny.cfg.pages :=
  ⟨rfl, by simp, by decide, by decide, by decide⟩

theorem witness_BlockDoesNotReadTheSink : exec .flush tiny = .next (after .flush tiny) := rfl

theorem witness_ConstructionClearsAndDirties : construct (cfgOf 4 12 0) = .ok (State.fresh (cfgOf 4 12 0)) :=
  if_pos (by decide)

theorem witness_ConstructionChecksTheConfiguration : (cfgOf 1 128 255).valid ∧ ¬ (cfgOf 1 129 255).valid := by decide

theorem witness_StepKeepsTheInvariant : tiny.Inv ∧ step tiny = .next tiny := ⟨tiny_inv, rfl⟩

theorem witness_StepKeepsTheSinkInSync :
    tiny.Inv ∧ tiny.sinkInSync ∧ (∀ ch bs later, tiny.inputs ≠ .foreign ch bs :: later) ∧
      ∀ bs later rest, tiny.inputs = .request bs :: later → decode bs ≠ .ok (.resetInit, rest) :=
  ⟨tiny_inv, tiny_sinkInSync, by simp [tiny, gfx, State.fresh], by simp [tiny, gfx, State.fresh]⟩

theorem witness_StepKeepsSinkShowsSent :
    let s := tiny.withRequest [0x3]
    (∀ ch bs later, s.inputs ≠ .foreign ch bs :: later) ∧ step s = .next (after .flush tiny) ∧
      (∀ e ∈ (after .flush tiny).trace.drop s.trace.length, e.channel = .data → e.outcome = .ok) ∧
      ∀ bs later rest, s.inputs = .request bs :: later → decode bs ≠ .ok (.resetInit, rest) := by
  refine ⟨by simp, rfl, by decide, ?_⟩
  rintro bs later rest h
  obtain ⟨rfl, -⟩ : bs = [0x3] ∧ later = [] := by simpa [tiny, gfx, State.fresh, eq_comm] using h
  rw [show decode [0x3] = .ok (.flush, []) by decide]
  simp

end Sys2Proof.Tests
end

section
/-! The step on a request that decodes: what `State.fetch` takes off the inputs, and what `step` does with it. -/

namespace Sys2Proof.Machine

/-- `State.fetch` on a request that decodes: bytes after the last operand do not matter (notes/assumptions/2.md). -/
theorem State.fetch_of_decode_ok {s : State} {bs rest : List Byte} {later : List Input} {i : Instr}
    (hvalid : s.cfg.valid) (hinputs : s.inputs = .request bs :: later) (hdecode : decode bs = .ok (i, rest)) :
    s.fetch = .run i { s with inputs := later } := by
  rw [State.fetch, if_pos hvalid]
  simp only [hinputs, hdecode]

theorem step_of_fetch_run {s t : State} {i : Instr} (hfetch : s.fetch = .run i t) : step s = exec i t := by
  simp only [step, hfetch]

/-- Settles O13: the request is fetched as its decoded instruction, and `step` runs what was fetched. -/
theorem stepRunsTheDecodedRequest : Obligations.StepRunsTheDecodedRequest := by
  intro s bs later i rest hvalid hinputs hdecode
  exact step_of_fetch_run (State.fetch_of_decode_ok hvalid hinputs hdecode)

end Sys2Proof.Machine
end

section
/-! What an instruction can do: one inversion lemma for `exec` and one for `step`, from which frames and invariants
follow. -/

namespace Sys2Proof.Machine

/-- Nothing of the block differs but the result; the trace, the answers used up and the sink may, whose RAM stays in order. -/
structure State.Quiet (s t : State) : Prop where
  cfg : t.cfg = s.cfg
  fb : t.fb = s.fb
  dr : t.dr = s.dr
  mode : t.mode = s.mode
  att : t.att = s.att
  handle : t.handle = s.handle
  sent : t.sent = s.sent
  inputs : t.inputs = s.inputs
  ram : Memory.sorted s.sink.ram = true → Memory.sorted t.sink.ram = true

theorem State.Quiet.refl (s : State) : s.Quiet s := ⟨rfl, rfl, rfl, rfl, rfl, rfl, rfl, rfl, id⟩

theorem State.Quiet.trans {s t u : State} (h : s.Quiet t) (k : t.Quiet u) : s.Quiet u :=
  ⟨k.cfg.trans h.cfg, k.fb.trans h.fb, k.dr.trans h.dr, k.mode.trans h.mode, k.att.trans h.att,
    k.handle.trans h.handle, k.sent.trans h.sent, k.inputs.trans h.inputs, k.ram ∘ h.ram⟩

theorem State.complete_quiet (v : Value) (s : State) : s.Quiet (s.complete v) :=
  ⟨rfl, rfl, rfl, rfl, rfl, rfl, rfl, rfl, id⟩

theorem State.raise_quiet (e : OpError) (s : State) : s.Quiet (s.raise e) :=
  ⟨rfl, rfl, rfl, rfl, rfl, rfl, rfl, rfl, id⟩

theorem State.refuse_quiet (r : RefuseReason) (s : State) : s.Quiet (s.refuse r) :=
  ⟨rfl, rfl, rfl, rfl, rfl, rfl, rfl, rfl, id⟩

theorem State.pinPhase_quiet (s : State) : s.Quiet s.pinPhase :=
  ⟨rfl, rfl, rfl, rfl, rfl, rfl, rfl, rfl, fun _ => rfl⟩

theorem State.transact_quiet (ch : Channel) (bs : List Byte) (s : State) : s.Quiet (s.transact ch bs).1 :=
  ⟨rfl, rfl, rfl, rfl, rfl, rfl, rfl, rfl, Sink.answered_sorted ch bs _⟩

theorem finish_quiet (r : State × TxOutcome) : r.1.Quiet (finish r) := by
  obtain ⟨-, hr⟩ | ⟨t, -, hr⟩ := finish_cases r
  · exact hr ▸ State.complete_quiet ..
  · exact hr ▸ State.raise_quiet ..

theorem State.sendCommands_quiet (cs : List Command) (s : State) : s.Quiet (State.sendCommands cs s).1 :=
  State.sendCommands_rel .refl (fun _ _ _ => .trans) (fun s _ => s.transact_quiet ..) cs s

theorem State.resetInitWith_quiet (cs : List Command) (s : State) : s.Quiet (s.resetInitWith cs) := by
  unfold State.resetInitWith
  split
  · exact s.pinPhase_quiet.trans (State.raise_quiet ..)
  · exact s.pinPhase_quiet.trans ((State.sendCommands_quiet ..).trans (finish_quiet _))

/-- What an instruction does to a state. Any may be quiet (a refusal among them); the others write the block, past the
guards of R190. -/
inductive ExecEffect : Instr → State → State → Prop
  | quiet {i s t} : s.Quiet t → ExecEffect i s t
  | enterRaw {s} : s.mode = .uninit → ExecEffect .enterRaw s ({ s with mode := .raw }.complete .none)
  | enterGfx {s} : s.mode = .uninit → ExecEffect .enterGfx s ({ s with mode := .gfx }.complete .none)
  | detach {s} : s.mode = .gfx → s.att = .attached →
      ExecEffect .detach s ({ s with att := .detached }.complete (.handle s.handle))
  | attach {s h} : s.mode = .gfx → s.att = .detached →
      ExecEffect (.attach h) s ({ s with att := .attached, handle := h }.complete .none)
  | setPixel {s x y color} : s.mode = .gfx →
      ExecEffect (.setPixel x y color) s ((s.setPixel x y color).complete .none)
  | markAllDirty {s} : s.mode = .gfx → ExecEffect .markAllDirty s (s.setAllRanges.complete .none)
  | flush {s} : s.mode = .gfx → s.att = .attached →
      ExecEffect .flush s (finish (State.flushFrom s.cfg.pages 0 s))

/-! A guard that fails makes the instruction quiet. -/

theorem ExecEffect.of_inMode {i : Instr} {s : State} {m : Mode} {k : State → State}
    (h : s.mode = m → ExecEffect i s (k s)) : ExecEffect i s (s.inMode m k) := by
  by_cases hm : s.mode = m
  · exact State.inMode_of_eq k hm ▸ h hm
  · exact State.inMode_of_ne k hm ▸ .quiet (s.refuse_quiet _)

theorem ExecEffect.of_whenAttached {i : Instr} {s : State} {k : State → State}
    (h : s.att = .attached → ExecEffect i s (k s)) : ExecEffect i s (s.whenAttached k) := by
  cases ha : s.att with
  | attached => exact State.whenAttached_of_attached k ha ▸ h ha
  | detached => exact State.whenAttached_of_detached k ha ▸ .quiet (s.refuse_quiet _)

theorem ExecEffect.of_whenDetached {i : Instr} {s : State} {k : State → State}
    (h : s.att = .detached → ExecEffect i s (k s)) : ExecEffect i s (s.whenDetached k) := by
  cases ha : s.att with
  | attached => exact State.whenDetached_of_attached k ha ▸ .quiet (s.refuse_quiet _)
  | detached => exact State.whenDetached_of_detached k ha ▸ h ha

/-- All that `exec` can do. -/
theorem exec_effect {i : Instr} {s t : State} (h : exec i s = .next t) : ExecEffect i s t := by
  cases i with
  | sendCmd c =>
    obtain rfl := Host.Outcome.next.inj h
    exact .of_inMode fun _ => .quiet ((s.transact_quiet ..).trans (finish_quiet _))
  | setPixel x y color =>
    obtain rfl := Host.Outcome.next.inj h
    exact .of_inMode .setPixel
  | flush =>
    obtain rfl := Host.Outcome.next.inj h
    exact .of_inMode fun hm => .of_whenAttached (.flush hm)
  | markAllDirty =>
    obtain rfl := Host.Outcome.next.inj h
    exact .of_inMode .markAllDirty
  | detach =>
    obtain rfl := Host.Outcome.next.inj h
    exact .of_inMode fun hm => .of_whenAttached (.detach hm)
  | attach handle =>
    obtain rfl := Host.Outcome.next.inj h
    exact .of_inMode fun hm => .of_whenDetached (.attach hm)
  | getSize =>
    obtain rfl := Host.Outcome.next.inj h
    exact .of_inMode fun _ => .quiet (s.complete_quiet _)
  | enterRaw =>
    obtain rfl := Host.Outcome.next.inj h
    exact .of_inMode .enterRaw
  | enterGfx =>
    obtain rfl := Host.Outcome.next.inj h
    exact .of_inMode .enterGfx
  | resetInit =>
    obtain rfl := Host.Outcome.next.inj h
    exact .of_whenAttached fun _ => .quiet (s.resetInitWith_quiet _)
  | _ =>
    -- the fifteen command rows only return bytes (R110)
    obtain rfl := Host.Outcome.next.inj h
    exact .quiet (s.complete_quiet _)

/-- What a step does, by the input it takes. -/
inductive StepEffect : State → State → Prop
  | idle {s} : s.inputs = [] → StepEffect s s
  | foreign {s ch bs later} : s.inputs = .foreign ch bs :: later → s.att = .detached →
      StepEffect s { s with inputs := later }.foreignTraffic
  | reserved {s bs later opsel} : s.inputs = .request bs :: later → decode bs = .error (.reservedOp opsel) →
      StepEffect s ({ s with inputs := later }.refuse .reservedOp)
  | run {s t bs later i rest} : s.inputs = .request bs :: later → decode bs = .ok (i, rest) →
      exec i { s with inputs := later } = .next t → StepEffect s t

/-- All that a step that answers a next state can do. -/
theorem step_effect {s t : State} (h : step s = .next t) : StepEffect s t := by
  by_cases hvalid : s.cfg.valid
  · rw [step, State.fetch, if_pos hvalid] at h
    rcases hi : s.inputs with _ | ⟨⟨bs⟩ | ⟨ch, bs⟩, later⟩ <;> rw [hi] at h
    · obtain rfl := Host.Outcome.next.inj h
      exact .idle hi
    · rcases hd : decode bs with r | ⟨i, rest⟩ <;> simp only [hd] at h
      · cases r with
        | reservedOp opsel =>
          obtain rfl := Host.Outcome.next.inj h
          exact .reserved hi hd
        | _ => cases h
      · exact .run hi hd h
    · by_cases ha : s.att = .detached
      · simp only [if_pos ha] at h
        obtain rfl := Host.Outcome.next.inj h
        exact .foreign hi ha
      · simp only [if_neg ha] at h
        cases h
  · rw [step, State.fetch, if_neg hvalid] at h
    cases h

end Sys2Proof.Machine
end

section
/-! SET_PIXEL: what it does to each framebuffer byte, pixel and range. -/

namespace Sys2Proof.Machine

/-- A bit of a painted byte: the painted one takes the colour (R140). -/
theorem paint_getLsbD {b i : Nat} (hi : i < 8) (color : Color) (old : Byte) :
    (paint b color old).getLsbD i = if i = b then decide (color = .on) else old.getLsbD i := by
  have hbit : ((1 : Byte) <<< b).getLsbD i = decide (i = b) := by
    rw [BitVec.getLsbD_shiftLeft, show (1 : Byte) = 1#8 from rfl, BitVec.getLsbD_one]
    grind
  cases color with
  | on =>
    simp only [paint, BitVec.getLsbD_or, hbit]
    split <;> simp_all
  | off =>
    simp only [paint, BitVec.getLsbD_and, BitVec.getLsbD_not, hbit]
    split <;> simp_all

@[simp] theorem pageOf_natCast (y : Nat) : pageOf y = y / 8 := rfl
@[simp] theorem rowBit_natCast (y : Nat) : rowBit y = y % 8 := rfl
@[simp] theorem columnOf_natCast (x : Nat) : columnOf x = x := rfl

@[simp] theorem State.fbRead_setRange (p q c : Nat) (r : DirtyRange) (s : State) :
    (s.setRange p r).fbRead q c = s.fbRead q c := rfl

/-- A cell reads as it was written last (R11, R51). -/
theorem State.fbRead_fbWrite {s : State} {p c q d : Nat} (v : Byte) (hs : Memory.sorted s.fb = true)
    (hc : c < s.cfg.width) (hd : d < s.cfg.width) :
    (s.fbWrite p c v).fbRead q d = if q = p ∧ d = c then v else s.fbRead q d := by
  split
  · obtain ⟨rfl, rfl⟩ := ‹_›
    exact Memory.read_write_self _ v hs
  · exact Memory.read_write_ne (fun h => ‹¬ _› (cellAddr_inj hd hc h)) v s.fb

theorem columnOf_lt {cfg : DisplaySpecs} {x y : Int} (h : inBounds cfg x y = true) : columnOf x < cfg.width := by
  obtain ⟨hx, hxw, -, -⟩ := (inBounds_iff cfg x y).1 h
  exact (Int.toNat_lt hx).2 hxw

/-- A row inside the bounds stands in one of the pages (R9, R56). -/
theorem pageOf_lt {cfg : DisplaySpecs} {x y : Int} (hpages : cfg.pages = (cfg.height + 7) / 8)
    (h : inBounds cfg x y = true) : pageOf y < cfg.pages := by
  obtain ⟨-, -, hy, hyh⟩ := (inBounds_iff cfg x y).1 h
  simp only [pageOf, hpages]
  omega

/-- The row's bit lies before the rows beyond HEIGHT. -/
theorem pageOf_rowBit_lt {cfg : DisplaySpecs} {x y : Int} (h : inBounds cfg x y = true) :
    8 * pageOf y + rowBit y < cfg.height := by
  obtain ⟨-, -, hy, hyh⟩ := (inBounds_iff cfg x y).1 h
  simp only [pageOf, rowBit]
  omega

/-- Inside the bounds SET_PIXEL paints its own cell and leaves every other one. -/
theorem State.fbRead_setPixel {s : State} {x y : Int} {d : Nat} (q : Nat) (color : Color)
    (hs : Memory.sorted s.fb = true) (hin : inBounds s.cfg x y = true) (hd : d < s.cfg.width) :
    (s.setPixel x y color).fbRead q d =
      if q = pageOf y ∧ d = columnOf x then paint (rowBit y) color (s.fbRead q d) else s.fbRead q d := by
  rw [State.setPixel, if_pos hin]
  dsimp only
  split
  · -- the byte stays, and so it is the painted one already
    split
    · obtain ⟨rfl, rfl⟩ := ‹q = _ ∧ d = _›
      exact ‹paint _ _ _ = _›.symm
    · rfl
  · rw [State.fbRead_setRange, State.fbRead_fbWrite _ hs (columnOf_lt hin) hd]
    split
    · obtain ⟨rfl, rfl⟩ := ‹q = _ ∧ d = _›
      rfl
    · rfl

/-- SET_PIXEL only widens ranges (R28). -/
theorem State.setPixel_covers {s : State} {p c : Nat} (x y : Int) (color : Color)
    (h : (s.range p).covers c = true) : ((s.setPixel x y color).range p).covers c = true := by
  obtain heq | ⟨-, -, heq⟩ := s.setPixel_cases x y color <;> rw [heq]
  · exact h
  · rw [State.range_setRange]
    split
    · obtain ⟨rfl, -⟩ := ‹p = _ ∧ _›
      exact DirtyRange.include_covers h
    · exact h

/-- A byte that SET_PIXEL changes is dirty afterwards. -/
theorem State.setPixel_changed_covers {s : State} {x y : Int} {p c : Nat} {color : Color}
    (hs : Memory.sorted s.fb = true) (hpage : p < s.dr.length) (hc : c < s.cfg.width)
    (h : (s.setPixel x y color).fbRead p c ≠ s.fbRead p c) :
    ((s.setPixel x y color).range p).covers c = true := by
  obtain heq | ⟨hin, -, heq⟩ := s.setPixel_cases x y color
  · exact absurd (by rw [heq]) h
  · obtain ⟨rfl, rfl⟩ : p = pageOf y ∧ c = columnOf x := by
      by_contra hne
      exact h (by rw [State.fbRead_setPixel p color hs hin hc, if_neg hne])
    rw [heq, State.range_setRange, if_pos ⟨rfl, hpage⟩]
    exact DirtyRange.include_covers_self ..

/-- The frame of SET_PIXEL. -/
theorem State.setPixel_frame (x y : Int) (color : Color) (s : State) :
    s.setPixel x y color = { s with fb := (s.setPixel x y color).fb, dr := (s.setPixel x y color).dr } := by
  obtain heq | ⟨-, -, heq⟩ := s.setPixel_cases x y color
  · rw [heq]
  · rw [heq]
    rfl

/-- The same on pixels (R21): the named one takes the colour. -/
theorem State.pixel_setPixel {s : State} {x y x' y' : Nat} (color : Color) (hs : Memory.sorted s.fb = true)
    (hx : x < s.cfg.width) (hy : y < s.cfg.height) (hx' : x' < s.cfg.width) :
    (s.setPixel x y color).pixel x' y' = if x' = x ∧ y' = y then decide (color = .on) else s.pixel x' y' := by
  have hin : inBounds s.cfg x y = true := by simp [inBounds_iff, hx, hy]
  rw [State.pixel, State.fbRead_setPixel _ color hs hin hx']
  by_cases hcell : y' / 8 = pageOf y ∧ x' = columnOf x
  · rw [if_pos hcell, paint_getLsbD (by omega)]
    simp only [pageOf_natCast, columnOf_natCast] at hcell
    have hrow : y' % 8 = rowBit y ↔ x' = x ∧ y' = y := by rw [rowBit_natCast]; omega
    simp only [hrow, State.pixel]
  · rw [if_neg hcell]
    simp only [pageOf_natCast, columnOf_natCast] at hcell
    rw [if_neg (by omega), State.pixel]

/-- In graphics mode SET_PIXEL answers Ok (R140). -/
theorem exec_setPixel_of_gfx {s : State} (x y : Int) (color : Color) (hm : s.mode = .gfx) :
    exec (.setPixel x y color) s = .next ((s.setPixel x y color).complete .none) :=
  congrArg _ (State.inMode_of_eq _ hm)

/-- Settles O20: the painted bit is the named pixel, and every other bit of its byte and every other byte stay. -/
theorem setPixelThenReadPixels : Obligations.SetPixelThenReadPixels := by
  intro s x y x' y' color hm hwf hx hy hx' _
  have hs : Memory.sorted s.fb = true := (Bool.and_eq_true_iff.1 hwf).1
  exact ⟨_, exec_setPixel_of_gfx x y color hm, rfl, State.pixel_setPixel color hs hx hy hx'⟩

end Sys2Proof.Machine
end

section
/-! Who writes what, and that no instruction but FLUSH shrinks a range: read off `ExecEffect`. -/

namespace Sys2Proof.Machine

theorem State.setPixel_pages (x y : Int) (color : Color) (s : State) :
    (s.setPixel x y color).dr.length = s.dr.length := by
  obtain heq | ⟨-, -, heq⟩ := s.setPixel_cases x y color
  · rw [heq]
  · rw [heq, State.setRange_dr, List.length_set, State.fbWrite_dr]

/-- Settles O44: each effect of an instruction writes its own elements; SET_PIXEL and FLUSH have a frame lemma each. -/
theorem writersOfEachElement : Obligations.WritersOfEachElement := by
  intro i s t h
  cases exec_effect h with
  | quiet q =>
    exact ⟨q.cfg, q.inputs, fun _ => q.dr ▸ rfl, fun _ => q.fb, fun _ _ _ => q.dr, fun _ _ => ⟨q.att, q.handle⟩,
      fun _ _ => q.mode, fun _ => q.sent⟩
  | enterRaw => simp
  | enterGfx => simp
  | detach => simp
  | attach => simp
  | markAllDirty => simp [eq_comm]
  | @setPixel _ x y color =>
    rw [State.setPixel_frame]
    simp [State.setPixel_pages]
  | flush =>
    have q := finish_quiet (State.flushFrom s.cfg.pages 0 s)
    have b := State.flushFrom_sameBlock s.cfg.pages 0 s
    exact ⟨q.cfg.trans b.cfg, q.inputs.trans b.inputs, fun _ => q.dr ▸ b.pages, fun _ => q.fb.trans b.fb,
      fun _ hne => absurd rfl hne, fun _ _ => ⟨q.att.trans b.att, q.handle.trans b.handle⟩,
      fun _ _ => q.mode.trans b.mode, fun hne => absurd rfl hne⟩

theorem State.Quiet.range {s t : State} (h : s.Quiet t) (p : Nat) : t.range p = s.range p := by
  rw [State.range, h.dr, State.range]

theorem State.rangesWf.range_wf {s : State} (h : s.rangesWf) (p : Nat) : (s.range p).wf s.cfg.width = true := by
  by_cases hp : p < s.dr.length
  · rw [State.range, List.getD_eq_getElem _ _ hp]
    exact h.2 _ (List.getElem_mem hp)
  · rw [State.range, List.getD_eq_default _ _ (Nat.le_of_not_lt hp)]
    rfl

/-- A covered column is one of a page of the block, inside its width. -/
theorem State.rangesWf.of_covers {s : State} (h : s.rangesWf) {p c : Nat} (hc : (s.range p).covers c = true) :
    p < s.cfg.pages ∧ c < s.cfg.width := by
  have hpage : p < s.cfg.pages := by
    by_contra hp
    have hclean : s.range p = .clean := List.getD_eq_default _ _ (h.1 ▸ Nat.le_of_not_lt hp)
    simp [hclean] at hc
  have hwf := h.range_wf p
  cases hrange : s.range p with
  | clean => simp [hrange] at hc
  | dirty a b =>
    simp only [hrange, DirtyRange.covers_dirty, DirtyRange.wf_dirty] at hc hwf
    exact ⟨hpage, by omega⟩

/-! Every range full-width: after construction (R33) and after MARK_ALL_DIRTY (R144). -/

theorem State.rangesWf.of_all_full {s : State} (hwidth : 1 ≤ s.cfg.width)
    (hdr : s.dr = List.replicate s.cfg.pages (fullRange s.cfg)) : s.rangesWf := by
  refine ⟨by rw [hdr, List.length_replicate], fun r hr => ?_⟩
  rw [hdr] at hr
  rw [List.eq_of_mem_replicate hr]
  exact (DirtyRange.wf_dirty ..).2 ⟨hwidth, le_refl _⟩

theorem State.range_of_all_full {s : State} {p : Nat} (hdr : s.dr = List.replicate s.cfg.pages (fullRange s.cfg))
    (hp : p < s.cfg.pages) : s.range p = fullRange s.cfg := by
  simp [State.range, hdr, hp]

theorem State.covers_of_all_full {s : State} {p c : Nat}
    (hdr : s.dr = List.replicate s.cfg.pages (fullRange s.cfg)) (hp : p < s.cfg.pages) (hc : c < s.cfg.width) :
    (s.range p).covers c = true := by
  rw [State.range_of_all_full hdr hp]
  exact (DirtyRange.covers_dirty ..).2 ⟨Nat.zero_le c, hc⟩

/-- Where every cell is dirty the law of SENT says nothing (R63). -/
theorem State.sentLaw.of_all_full {s : State} (hdr : s.dr = List.replicate s.cfg.pages (fullRange s.cfg)) :
    s.sentLaw :=
  fun _ _ hp hc hclean => absurd (State.covers_of_all_full hdr hp hc) (Bool.eq_false_iff.1 hclean)

/-- Settles O45: SET_PIXEL takes unions, MARK_ALL_DIRTY covers everything, the others leave the ranges. -/
theorem onlyFlushShrinksARange : Obligations.OnlyFlushShrinksARange := by
  intro i s t p c hwf hi h hc
  cases exec_effect h with
  | quiet q => rw [q.range]; exact hc
  | enterRaw => exact hc
  | enterGfx => exact hc
  | detach => exact hc
  | attach => exact hc
  | setPixel => exact State.setPixel_covers _ _ _ hc
  | markAllDirty =>
    obtain ⟨hp, hcol⟩ := hwf.of_covers hc
    exact State.covers_of_all_full rfl hp hcol
  | flush => exact absurd rfl hi

end Sys2Proof.Machine
end

section
/-! FLUSH of a page, and the invariant: each effect of an instruction keeps it, and so every step does. -/

namespace Sys2Proof.Machine

/-! ### What the flush of a page can do -/

/-- The burst of a page fails and changes nothing of the block, or SENT has its bytes. -/
theorem State.sendBurst_cases (p start stop : Nat) (s : State) :
    ∃ u, s.Quiet u ∧ ((∃ e, s.sendBurst p start stop = (u, .err e)) ∨
      s.sendBurst p start stop = (u.noteSent p start (s.fbRun p start (stop - start)), .ok)) := by
  refine ⟨_, s.transact_quiet .data (s.fbRun p start (stop - start)), ?_⟩
  simp only [State.sendBurst]
  obtain ⟨u, _ | e⟩ := s.transact .data (s.fbRun p start (stop - start))
  · exact .inr rfl
  · exact .inl ⟨e, rfl⟩

theorem State.Quiet.fbRead {s t : State} (h : s.Quiet t) (p c : Nat) : t.fbRead p c = s.fbRead p c := by
  rw [State.fbRead, h.cfg, h.fb, State.fbRead]

theorem State.Quiet.fbRun {s t : State} (h : s.Quiet t) (p c n : Nat) : t.fbRun p c n = s.fbRun p c n := by
  simp only [State.fbRun, h.fbRead]

/-- A page with nothing pending is skipped; of any other one a transaction fails, which leaves the block as it is, or its
range has gone out: SENT has its bytes and the page is clean (R143). -/
theorem State.flushPage_cases (p : Nat) (s : State) :
    ((s.range p).burst s.cfg.width = none ∧ s.flushPage p = (s, .ok)) ∨
      ∃ start stop u, (s.range p).burst s.cfg.width = some (start, stop) ∧ s.Quiet u ∧
        ((∃ e, s.flushPage p = (u, .err e)) ∨
          s.flushPage p = ((u.noteSent p start (s.fbRun p start (stop - start))).setRange p .clean, .ok)) := by
  unfold State.flushPage
  split
  · exact .inl ⟨‹_›, rfl⟩
  · rename_i start stop hburst
    have haddress : s.Quiet (andThen (State.sendCommand (.setColumn (columnAddr s.cfg start)))
        (s.sendCommand (.setPage (pageAddr p)))).1 :=
      andThen_rel (fun _ _ _ => .trans) (s.transact_quiet ..) fun _ => State.transact_quiet ..
    generalize andThen (State.sendCommand _) _ = r at haddress ⊢
    obtain ⟨v, _ | e⟩ := r
    · obtain ⟨u, hu, hsend⟩ := v.sendBurst_cases p start stop
      rw [haddress.fbRun] at hsend
      refine .inr ⟨start, stop, u, hburst, haddress.trans hu, ?_⟩
      obtain ⟨e, hsend⟩ | hsend := hsend <;> rw [andThen_ok, hsend]
      · exact .inl ⟨e, rfl⟩
      · exact .inr rfl
    · exact .inr ⟨start, stop, v, hburst, haddress, .inl ⟨e, rfl⟩⟩

/-! ### What SENT holds after a burst -/

/-- The addresses of a run of cells of a page are those of its columns, and of no other page (R50, R51). -/
theorem cellAddr_mem_run {cfg : DisplaySpecs} {p q start stop c : Nat} (hstop : stop ≤ cfg.width)
    (hc : c < cfg.width) :
    (cellAddr cfg p start ≤ cellAddr cfg q c ∧ cellAddr cfg q c < cellAddr cfg p start + (stop - start)) ↔
      q = p ∧ start ≤ c ∧ c < stop := by
  constructor
  · rintro ⟨hle, hlt⟩
    have hsame : cellAddr cfg q c = cellAddr cfg p (start + (cellAddr cfg q c - cellAddr cfg p start)) := by
      simp only [cellAddr] at *
      omega
    obtain ⟨hpage, hcol⟩ := cellAddr_inj hc (by omega) hsame
    omega
  · rintro ⟨rfl, hle, hlt⟩
    simp only [cellAddr]
    omega

@[simp] theorem State.fbRun_length (p c n : Nat) (s : State) : (s.fbRun p c n).length = n := by simp [State.fbRun]

@[simp] theorem State.range_noteSent (p q c : Nat) (bs : List Byte) (s : State) :
    (s.noteSent p c bs).range q = s.range q := rfl

/-- The bytes of a run noted in SENT stand at its cells. -/
theorem State.sentAt_noteSent {s : State} {p q start stop c : Nat} (u : State) (hcfg : u.cfg = s.cfg)
    (hsent : u.sent = s.sent) (hstop : stop ≤ s.cfg.width) (hc : c < s.cfg.width) :
    (u.noteSent p start (s.fbRun p start (stop - start))).sentAt q c =
      if q = p ∧ start ≤ c ∧ c < stop then some (s.fbRead q c) else s.sentAt q c := by
  have hrun := cellAddr_mem_run (p := p) (q := q) (start := start) hstop hc
  simp only [State.sentAt, State.noteSent_sent, State.noteSent_cfg, hcfg, hsent, Memory.lookup_putRun,
    State.fbRun_length, hrun]
  split
  · obtain ⟨rfl, hle, hlt⟩ := ‹_›
    have hoffset : cellAddr s.cfg q c - cellAddr s.cfg q start = c - start := by
      simp only [cellAddr]
      omega
    have hin : c - start < stop - start := by omega
    simp [State.fbRun, hoffset, hin, Nat.add_sub_cancel' hle]
  · rfl

/-! ### The invariant -/

/-- The invariant speaks of the configuration, the page buffer, SENT and the order of the sink's RAM, and of the mode and
the attach state in one clause. -/
theorem State.Inv.of_same_buffer {s t : State} (h : s.Inv) (hcfg : t.cfg = s.cfg) (hfb : t.fb = s.fb)
    (hdr : t.dr = s.dr) (hsent : t.sent = s.sent)
    (hram : Memory.sorted s.sink.ram = true → Memory.sorted t.sink.ram = true) (hmodes : t.modeLegal) : t.Inv where
  cfgValid := hcfg ▸ h.cfgValid
  ranges := by simpa only [State.rangesWf, hcfg, hdr] using h.ranges
  memories := by
    obtain ⟨hwf, hsorted, hsink, hin⟩ := h.memories
    simpa only [State.memoriesWf, hcfg, hfb, hsent] using ⟨hwf, hsorted, hram hsink, hin⟩
  modes := hmodes
  rows := by simpa only [State.rowsBeyondHeightClear, State.fbRead, hcfg, hfb] using h.rows
  sent := by
    simpa only [State.sentLaw, State.range, State.sentAt, State.fbRead, hcfg, hfb, hdr, hsent] using h.sent

theorem State.Inv.of_quiet {s t : State} (h : s.Inv) (q : s.Quiet t) : t.Inv :=
  h.of_same_buffer q.cfg q.fb q.dr q.sent q.ram
    (by simpa only [State.modeLegal, q.cfg, q.fb, q.dr, q.mode, q.att, q.sent] using h.modes)

/-- A write lists at most its own address besides the old ones. -/
theorem Memory.mem_write {a : Nat} {v : Byte} {m : Memory} {cell : Host.Cell} (h : cell ∈ Memory.write a v m) :
    cell.1 = a ∨ cell ∈ m := by
  unfold Memory.write at h
  split at h
  · exact .inr ((Memory.unlist_sublist a m).subset h)
  · exact (Memory.mem_put h).imp_left (congrArg Prod.fst)

theorem State.memoriesWf.setPixel {s : State} (h : s.memoriesWf) (hvalid : s.cfg.valid) (x y : Int) (color : Color) :
    (s.setPixel x y color).memoriesWf := by
  obtain ⟨-, -, hpages, -, -⟩ := hvalid
  obtain heq | ⟨hin, -, heq⟩ := s.setPixel_cases x y color <;> rw [heq]
  · exact h
  · obtain ⟨hwf, hsent, hram, hcells⟩ := h
    refine ⟨Memory.wf_write _ _ hwf, hsent, hram, fun cell hmem => ?_⟩
    obtain haddr | hold := Memory.mem_write hmem
    · exact haddr ▸ cellAddr_lt (pageOf_lt hpages hin) (columnOf_lt hin)
    · exact hcells cell hold

theorem State.rangesWf.setRange {s : State} (h : s.rangesWf) (p : Nat) {r : DirtyRange}
    (hr : r.wf s.cfg.width = true) : (s.setRange p r).rangesWf := by
  obtain ⟨hlen, hwf⟩ := h
  refine ⟨by simpa using hlen, fun q hq => ?_⟩
  obtain hold | rfl := List.mem_or_eq_of_mem_set hq
  · exact hwf q hold
  · exact hr

theorem State.rangesWf.setPixel {s : State} (h : s.rangesWf) (x y : Int) (color : Color) :
    (s.setPixel x y color).rangesWf := by
  obtain heq | ⟨hin, -, heq⟩ := s.setPixel_cases x y color <;> rw [heq]
  · exact h
  · have hwrite : (s.fbWrite (pageOf y) (columnOf x)
        (paint (rowBit y) color (s.fbRead (pageOf y) (columnOf x)))).rangesWf := h
    exact hwrite.setRange _ (DirtyRange.include_wf (columnOf_lt hin) (h.range_wf _))

/-- SET_PIXEL never paints a row beyond HEIGHT (R21). -/
theorem State.rowsBeyondHeightClear.setPixel {s : State} (h : s.rowsBeyondHeightClear)
    (hs : Memory.sorted s.fb = true) (x y : Int) (color : Color) :
    (s.setPixel x y color).rowsBeyondHeightClear := by
  by_cases hin : inBounds s.cfg x y = true
  · intro p c b hp hc hb hrow
    rw [State.setPixel_frame] at hp hc hrow
    rw [State.fbRead_setPixel p color hs hin hc]
    split
    · obtain ⟨rfl, rfl⟩ := ‹p = _ ∧ c = _›
      have hbit : b ≠ rowBit y := by
        have := pageOf_rowBit_lt hin
        rintro rfl
        exact absurd hrow (by simpa using this)
      rw [paint_getLsbD hb, if_neg hbit]
      exact h _ _ _ hp hc hb hrow
    · exact h _ _ _ hp hc hb hrow
  · rw [State.setPixel, if_neg hin]
    exact h

/-- A byte that SET_PIXEL changes is dirty, so that the law of SENT says nothing new (R63). -/
theorem State.sentLaw.setPixel {s : State} (h : s.sentLaw) (hs : Memory.sorted s.fb = true)
    (hpages : s.dr.length = s.cfg.pages) (x y : Int) (color : Color) : (s.setPixel x y color).sentLaw := by
  intro p c hp hc hclean
  have hcfg : (s.setPixel x y color).cfg = s.cfg := by rw [State.setPixel_frame]
  have hsent : (s.setPixel x y color).sentAt p c = s.sentAt p c := by rw [State.setPixel_frame]; rfl
  rw [hcfg] at hp hc
  have hsame : (s.setPixel x y color).fbRead p c = s.fbRead p c := by
    by_contra hne
    exact absurd (State.setPixel_changed_covers hs (hpages ▸ hp) hc hne) (by simp [hclean])
  have hold : (s.range p).covers c = false :=
    Bool.eq_false_iff.2 fun hcov => absurd (State.setPixel_covers x y color hcov) (by simp [hclean])
  rw [hsent, hsame]
  exact h p c hp hc hold

theorem State.Inv.setPixel {s : State} (h : s.Inv) (hm : s.mode = .gfx) (x y : Int) (color : Color) :
    (s.setPixel x y color).Inv := by
  have hs : Memory.sorted s.fb = true := (Bool.and_eq_true_iff.1 h.memories.1).1
  have hframe := s.setPixel_frame x y color
  exact {
    cfgValid := by rw [hframe]; exact h.cfgValid
    ranges := h.ranges.setPixel x y color
    memories := h.memories.setPixel h.cfgValid x y color
    modes := by rw [hframe]; exact fun hne => absurd hm hne
    rows := h.rows.setPixel hs x y color
    sent := h.sent.setPixel hs h.ranges.1 x y color }

theorem State.Inv.setAllRanges {s : State} (h : s.Inv) (hm : s.mode = .gfx) : s.setAllRanges.Inv where
  cfgValid := h.cfgValid
  ranges := .of_all_full h.cfgValid.1 rfl
  memories := h.memories
  modes := fun hne => absurd hm hne
  rows := h.rows
  sent := .of_all_full rfl

/-- After its burst a page is clean and SENT holds it; of the other pages both are as they were (R30, R63, R143). -/
theorem State.sentLaw.pageSent {s u : State} {p start stop : Nat} (h : s.sentLaw) (q : s.Quiet u)
    (hrange : s.range p = .dirty start stop) (hstop : stop ≤ s.cfg.width) :
    ((u.noteSent p start (s.fbRun p start (stop - start))).setRange p .clean).sentLaw := by
  intro r c hr hc hclean
  have hread : ((u.noteSent p start (s.fbRun p start (stop - start))).setRange p .clean).fbRead r c =
      s.fbRead r c := q.fbRead r c
  have hc : c < s.cfg.width := by rwa [← q.cfg]
  have hr : r < s.cfg.pages := by rwa [← q.cfg]
  rw [hread]
  refine (State.sentAt_noteSent u q.cfg q.sent hstop hc).trans ?_
  by_cases hin : r = p ∧ start ≤ c ∧ c < stop
  · rw [if_pos hin]
  · rw [if_neg hin]
    refine h r c hr hc ?_
    by_cases hp : r = p
    · rw [hp, hrange]
      exact Bool.eq_false_iff.2 fun hcov => hin ⟨hp, (DirtyRange.covers_dirty ..).1 hcov⟩
    · rwa [State.range_setRange, if_neg fun hsame => hp hsame.1, State.range_noteSent, q.range] at hclean

theorem State.Inv.pageSent {s u : State} {p start stop : Nat} (h : s.Inv) (hm : s.mode = .gfx) (q : s.Quiet u)
    (hrange : s.range p = .dirty start stop) (hstop : stop ≤ s.cfg.width) :
    ((u.noteSent p start (s.fbRun p start (stop - start))).setRange p .clean).Inv := by
  have hu := h.of_quiet q
  have hnote : (u.noteSent p start (s.fbRun p start (stop - start))).rangesWf := hu.ranges
  obtain ⟨hfb, hsent, hram, hcells⟩ := hu.memories
  exact {
    cfgValid := hu.cfgValid
    ranges := hnote.setRange p rfl
    memories := ⟨hfb, State.noteSent_sorted _ _ _ hsent, hram, hcells⟩
    modes := fun hne => absurd (q.mode.trans hm) hne
    rows := hu.rows
    sent := h.sent.pageSent q hrange hstop }

theorem State.Inv.flushPage {s : State} (h : s.Inv) (hm : s.mode = .gfx) (p : Nat) :
    (s.flushPage p).1.Inv ∧ (s.flushPage p).1.mode = .gfx := by
  obtain ⟨-, heq⟩ | ⟨start, stop, u, hburst, hu, ⟨e, heq⟩ | heq⟩ := s.flushPage_cases p <;> rw [heq]
  · exact ⟨h, hm⟩
  · exact ⟨h.of_quiet hu, hu.mode.trans hm⟩
  · obtain ⟨hrange, -, hstop⟩ := DirtyRange.burst_eq_some.1 hburst
    exact ⟨h.pageSent hm hu hrange hstop, hu.mode.trans hm⟩

theorem State.Inv.flushFrom {s : State} (h : s.Inv) (hm : s.mode = .gfx) (n fp : Nat) :
    (State.flushFrom n fp s).1.Inv := by
  induction n generalizing fp s with
  | zero => exact h
  | succ n ih =>
    obtain ⟨hpage, hmode⟩ := h.flushPage hm fp
    rw [State.flushFrom]
    generalize s.flushPage fp = r at hpage hmode ⊢
    obtain ⟨u, _ | e⟩ := r
    · exact ih hpage hmode (fp + 1)
    · exact hpage

/-- Every instruction keeps the invariant. -/
theorem State.Inv.exec {i : Instr} {s t : State} (h : s.Inv) (hexec : exec i s = .next t) : t.Inv := by
  cases exec_effect hexec with
  | quiet q => exact h.of_quiet q
  | enterRaw hm =>
    obtain ⟨ha, hbuffer⟩ := h.modes (by simp [hm])
    exact h.of_same_buffer rfl rfl rfl rfl id fun _ => ⟨ha, hbuffer⟩
  | enterGfx => exact h.of_same_buffer rfl rfl rfl rfl id fun hne => absurd rfl hne
  | detach hm => exact h.of_same_buffer rfl rfl rfl rfl id fun hne => absurd hm hne
  | attach hm => exact h.of_same_buffer rfl rfl rfl rfl id fun hne => absurd hm hne
  | setPixel hm => exact (h.setPixel hm ..).of_quiet (State.complete_quiet ..)
  | markAllDirty hm => exact (h.setAllRanges hm).of_quiet (State.complete_quiet ..)
  | flush hm => exact (h.flushFrom hm ..).of_quiet (finish_quiet _)

/-- The invariant does not look at the inputs. -/
theorem State.Inv.withInputs {s : State} (h : s.Inv) (later : List Input) : ({ s with inputs := later } : State).Inv :=
  h.of_same_buffer rfl rfl rfl rfl id h.modes

/-- Settles O51: the input is taken off, which the invariant does not see, and the instruction keeps it. -/
theorem stepKeepsTheInvariant : Obligations.StepKeepsTheInvariant := by
  intro s t h hstep
  cases step_effect hstep with
  | idle => exact h
  | foreign => exact h.of_same_buffer rfl rfl rfl rfl (fun _ => rfl) h.modes
  | reserved => exact (h.withInputs _).of_quiet (State.refuse_quiet ..)
  | run _ _ hexec => exact (h.withInputs _).exec hexec

end Sys2Proof.Machine
end

section
/-! The block right after construction. -/

namespace Sys2Proof.Machine

theorem construct_eq_ok {cfg : DisplaySpecs} {s : State} (h : construct cfg = .ok s) :
    cfg.valid ∧ s = State.fresh cfg := by
  unfold construct at h
  split at h
  · exact ⟨‹_›, (Except.ok.inj h).symm⟩
  · cases h

theorem State.fresh_range {cfg : DisplaySpecs} {p : Nat} (hp : p < cfg.pages) :
    (State.fresh cfg).range p = .dirty 0 cfg.width :=
  State.range_of_all_full (s := State.fresh cfg) rfl hp

theorem State.fresh_fbRead (cfg : DisplaySpecs) (p c : Nat) : (State.fresh cfg).fbRead p c = 0x00 := rfl

theorem State.fresh_inv {cfg : DisplaySpecs} (hvalid : cfg.valid) : (State.fresh cfg).Inv where
  cfgValid := hvalid
  ranges := .of_all_full hvalid.1 rfl
  memories := ⟨rfl, rfl, rfl, fun _ hmem => nomatch hmem⟩
  modes := fun _ => ⟨rfl, rfl, rfl, rfl⟩
  rows := fun p c b _ _ _ _ => by
    rw [State.fresh_fbRead]
    exact BitVec.getLsbD_zero
  sent := .of_all_full rfl

/-- Every cell is dirty: the sink is in sync as soon as its reader waits for a command. -/
theorem State.fresh_sinkInSync (cfg : DisplaySpecs) : (State.fresh cfg).sinkInSync :=
  ⟨fun _ => rfl, fun _ _ hp hc hclean =>
    absurd (State.covers_of_all_full rfl hp hc) (Bool.eq_false_iff.1 hclean)⟩

/-- Nothing was sent. -/
theorem State.fresh_sinkShowsSent (cfg : DisplaySpecs) : (State.fresh cfg).sinkShowsSent :=
  ⟨fun _ => rfl, fun _ _ _ _ _ hsent => nomatch hsent⟩

theorem Config.resetSpecs_valid : Config.resetSpecs.valid := by decide

/-- Settles O48: what construction answers is the fresh block. -/
theorem constructionClearsAndDirties : Obligations.ConstructionClearsAndDirties := by
  intro cfg s h
  obtain ⟨-, rfl⟩ := construct_eq_ok h
  exact ⟨rfl, State.fresh_fbRead cfg, List.length_replicate, fun p => State.fresh_range⟩

/-- Settles O50: the fresh block has nothing drawn, nothing sent and every cell dirty. -/
theorem constructionEstablishesTheInvariant : Obligations.ConstructionEstablishesTheInvariant :=
  ⟨fun cfg hvalid => ⟨State.fresh_inv hvalid, State.fresh_sinkInSync cfg, State.fresh_sinkShowsSent cfg⟩,
    State.fresh_inv Config.resetSpecs_valid⟩

end Sys2Proof.Machine
end

section
/-! The block does not read its sink (R29, R62): each operation does the same on a state with another
sink, up to the sink. -/

namespace Sys2Proof.Machine

/-- The state with another sink. -/
def State.withSink (k : Sink) (s : State) : State := { s with sink := k }

/-- The two states differ at most in the sink. -/
def State.SameButSink (s t : State) : Prop := ∃ k, t = s.withSink k

/-- The same of two sequences of transactions, which end alike. -/
def SameTxButSink (r q : State × TxOutcome) : Prop := r.1.SameButSink q.1 ∧ q.2 = r.2

/-- What does not look at the sink reads the same. -/
theorem State.SameButSink.read {α : Type} {s t : State} (h : s.SameButSink t) (f : State → α)
    (hf : ∀ s k, f (s.withSink k) = f s) : f t = f s := by
  obtain ⟨k, rfl⟩ := h
  exact hf s k

/-- An update that looks at the sink for the sink only keeps the relation. -/
theorem State.SameButSink.map {s t : State} (h : s.SameButSink t) (f : State → State)
    (hf : ∀ s k, ∃ k', f (s.withSink k) = (f s).withSink k') : (f s).SameButSink (f t) := by
  obtain ⟨k, rfl⟩ := h
  exact hf s k

theorem State.SameButSink.complete {s t : State} (h : s.SameButSink t) (v : Value) :
    (s.complete v).SameButSink (t.complete v) := h.map (·.complete v) fun _ k => ⟨k, rfl⟩

theorem State.SameButSink.raise {s t : State} (h : s.SameButSink t) (e : OpError) :
    (s.raise e).SameButSink (t.raise e) := h.map (·.raise e) fun _ k => ⟨k, rfl⟩

theorem State.SameButSink.refuse {s t : State} (h : s.SameButSink t) (r : RefuseReason) :
    (s.refuse r).SameButSink (t.refuse r) := h.map (·.refuse r) fun _ k => ⟨k, rfl⟩

theorem State.SameButSink.noteSent {s t : State} (h : s.SameButSink t) (p c : Nat) (bs : List Byte) :
    (s.noteSent p c bs).SameButSink (t.noteSent p c bs) := h.map (·.noteSent p c bs) fun _ k => ⟨k, rfl⟩

theorem State.SameButSink.setRange {s t : State} (h : s.SameButSink t) (p : Nat) (r : DirtyRange) :
    (s.setRange p r).SameButSink (t.setRange p r) := h.map (·.setRange p r) fun _ k => ⟨k, rfl⟩

theorem State.SameButSink.pinPhase {s t : State} (h : s.SameButSink t) : s.pinPhase.SameButSink t.pinPhase :=
  h.map State.pinPhase fun _ k => ⟨k.forget, rfl⟩

theorem State.SameButSink.setPixel {s t : State} (h : s.SameButSink t) (x y : Int) (color : Color) :
    (s.setPixel x y color).SameButSink (t.setPixel x y color) := by
  refine h.map (State.setPixel x y color) fun s k => ⟨k, ?_⟩
  simp only [State.setPixel, apply_ite (State.withSink k)]
  rfl

/-! ### Transactions -/

/-- The answer of a transaction comes from the transport, and only the sink sees its bytes. -/
theorem State.SameButSink.transact {s t : State} (h : s.SameButSink t) (ch : Channel) (bs : List Byte) :
    SameTxButSink (s.transact ch bs) (t.transact ch bs) := by
  obtain ⟨k, rfl⟩ := h
  exact ⟨⟨k.answered ch bs (s.answerAt 0), rfl⟩, rfl⟩

theorem SameTxButSink.andThen {r q : State × TxOutcome} {f g : State → State × TxOutcome} (h : SameTxButSink r q)
    (hfg : ∀ s t, s.SameButSink t → SameTxButSink (f s) (g t)) :
    SameTxButSink (Machine.andThen f r) (Machine.andThen g q) := by
  obtain ⟨s, o⟩ := r
  obtain ⟨t, o'⟩ := q
  obtain ⟨hst, rfl⟩ := h
  cases o' with
  | ok => exact hfg s t hst
  | err e => exact ⟨hst, rfl⟩

theorem SameTxButSink.finish {r q : State × TxOutcome} (h : SameTxButSink r q) :
    (Machine.finish r).SameButSink (Machine.finish q) := by
  obtain ⟨s, o⟩ := r
  obtain ⟨t, o'⟩ := q
  obtain ⟨hst, rfl⟩ := h
  cases o' with
  | ok => exact hst.complete _
  | err e => exact hst.raise _

theorem State.SameButSink.sendCommands {s t : State} (h : s.SameButSink t) (cs : List Command) :
    SameTxButSink (State.sendCommands cs s) (State.sendCommands cs t) := by
  induction cs generalizing s t with
  | nil => exact ⟨h, rfl⟩
  | cons c cs ih => exact (h.transact .command _).andThen fun _ _ => ih

theorem State.SameButSink.sendBurst {s t : State} (h : s.SameButSink t) (p start stop : Nat) :
    SameTxButSink (s.sendBurst p start stop) (t.sendBurst p start stop) := by
  have hrun : t.fbRun p start (stop - start) = s.fbRun p start (stop - start) :=
    h.read (·.fbRun p start (stop - start)) fun _ _ => rfl
  unfold State.sendBurst
  rw [hrun]
  exact (h.transact .data _).andThen fun _ _ hst => ⟨hst.noteSent .., rfl⟩

theorem State.SameButSink.flushPage {s t : State} (h : s.SameButSink t) (p : Nat) :
    SameTxButSink (s.flushPage p) (t.flushPage p) := by
  have hrange : t.range p = s.range p := h.read (·.range p) fun _ _ => rfl
  have hcfg : t.cfg = s.cfg := h.read State.cfg fun _ _ => rfl
  unfold State.flushPage
  rw [hrange, hcfg]
  split
  · exact ⟨h, rfl⟩
  · exact (((h.transact .command _).andThen fun _ _ hst => hst.transact ..).andThen fun _ _ hst =>
      hst.sendBurst ..).andThen fun _ _ hst => ⟨hst.setRange .., rfl⟩

theorem State.SameButSink.flushFrom {s t : State} (h : s.SameButSink t) (n fp : Nat) :
    SameTxButSink (State.flushFrom n fp s) (State.flushFrom n fp t) := by
  induction n generalizing fp s t with
  | zero => exact ⟨h, rfl⟩
  | succ n ih => exact (h.flushPage fp).andThen fun _ _ hst => ih hst (fp + 1)

theorem State.SameButSink.resetInitWith {s t : State} (h : s.SameButSink t) (cs : List Command) :
    (s.resetInitWith cs).SameButSink (t.resetInitWith cs) := by
  have hpin : t.pinAnswer = s.pinAnswer := h.read State.pinAnswer fun _ _ => rfl
  unfold State.resetInitWith
  rw [hpin]
  split
  · exact h.pinPhase.raise _
  · exact (h.pinPhase.sendCommands cs).finish

/-! ### Guards and instructions -/

theorem State.SameButSink.inMode {s t : State} {m : Mode} {f : State → State} (h : s.SameButSink t)
    (hf : (f s).SameButSink (f t)) : (s.inMode m f).SameButSink (t.inMode m f) := by
  have hmode : t.mode = s.mode := h.read State.mode fun _ _ => rfl
  unfold State.inMode
  rw [hmode]
  split
  · exact hf
  · exact h.refuse _

theorem State.SameButSink.whenAttached {s t : State} {f : State → State} (h : s.SameButSink t)
    (hf : (f s).SameButSink (f t)) : (s.whenAttached f).SameButSink (t.whenAttached f) := by
  have hatt : t.att = s.att := h.read State.att fun _ _ => rfl
  unfold State.whenAttached
  rw [hatt]
  split
  · exact hf
  · exact h.refuse _

theorem State.SameButSink.whenDetached {s t : State} {f : State → State} (h : s.SameButSink t)
    (hf : (f s).SameButSink (f t)) : (s.whenDetached f).SameButSink (t.whenDetached f) := by
  have hatt : t.att = s.att := h.read State.att fun _ _ => rfl
  unfold State.whenDetached
  rw [hatt]
  split
  · exact hf
  · exact h.refuse _

/-- Every instruction does the same on a state with another sink, up to the sink. -/
theorem exec_withSink (i : Instr) (s : State) (k : Sink) :
    ∃ t u, exec i s = .next t ∧ exec i (s.withSink k) = .next u ∧ t.SameButSink u := by
  have h : s.SameButSink (s.withSink k) := ⟨k, rfl⟩
  cases i with
  | sendCmd c => exact ⟨_, _, rfl, rfl, h.inMode (h.transact ..).finish⟩
  | setPixel x y color => exact ⟨_, _, rfl, rfl, h.inMode ((h.setPixel x y color).complete _)⟩
  | flush => exact ⟨_, _, rfl, rfl, h.inMode (h.whenAttached (h.flushFrom ..).finish)⟩
  | markAllDirty => exact ⟨_, _, rfl, rfl, h.inMode ⟨k, rfl⟩⟩
  | detach => exact ⟨_, _, rfl, rfl, h.inMode (h.whenAttached ⟨k, rfl⟩)⟩
  | attach handle => exact ⟨_, _, rfl, rfl, h.inMode (h.whenDetached ⟨k, rfl⟩)⟩
  | getSize => exact ⟨_, _, rfl, rfl, h.inMode ⟨k, rfl⟩⟩
  | enterRaw => exact ⟨_, _, rfl, rfl, h.inMode ⟨k, rfl⟩⟩
  | enterGfx => exact ⟨_, _, rfl, rfl, h.inMode ⟨k, rfl⟩⟩
  | resetInit => exact ⟨_, _, rfl, rfl, h.whenAttached (h.resetInitWith _)⟩
  | _ => exact ⟨_, _, rfl, rfl, ⟨k, rfl⟩⟩

/-- Settles O47: the two runs end in states that differ at most in the sink. -/
theorem blockDoesNotReadTheSink : Obligations.BlockDoesNotReadTheSink := by
  intro i s t k hexec
  obtain ⟨t', u, ht, hu, k', rfl⟩ := exec_withSink i s k
  obtain rfl := Host.Outcome.next.inj (ht.symm.trans hexec)
  exact ⟨k', hu⟩

end Sys2Proof.Machine
end

section
/-! A command received whole: the control register it addresses, and the reader. -/

namespace Sys2Proof.Machine

/-! ### Single bytes that address a control register -/

/-- A byte that is a whole command and acts on none of the pointers. -/
def isSingle (b : Byte) : Bool :=
  b &&& 0xF0 != 0xB0 && b &&& 0xF0 != 0x10 && b &&& 0xF0 != 0x00 && !needsArgument b

theorem isSingle_displayOnOff : ∀ a : Bool, isSingle (0xAE ||| bitOf a) = true := by decide
theorem isSingle_setStartLine : ∀ p : Byte, isSingle (0x40 ||| keepBits 6 p) = true := by decide
theorem isSingle_adcSelect : ∀ a : Bool, isSingle (0xA0 ||| bitOf a) = true := by decide
theorem isSingle_setNormalReverse : ∀ a : Bool, isSingle (0xA6 ||| bitOf a) = true := by decide
theorem isSingle_setAllPointsOn : ∀ a : Bool, isSingle (0xA4 ||| bitOf a) = true := by decide
theorem isSingle_setLcdBias : ∀ a : Bool, isSingle (0xA2 ||| bitOf a) = true := by decide
theorem isSingle_setCommonOutputMode : ∀ a : Bool, isSingle (0xC0 ||| (bitOf a <<< 3)) = true := by decide
theorem isSingle_setPowerControl :
    ∀ a b c : Bool, isSingle (0x28 ||| (bitOf a <<< 2) ||| (bitOf b <<< 1) ||| bitOf c) = true := by decide
theorem isSingle_setVoltageRegulatorRatio : ∀ p : Byte, isSingle (0x20 ||| keepBits 3 p) = true := by decide
theorem isSingle_setStaticIndicatorNone : isSingle 0xAC = true := by decide

/-- The bytes of SetStartLine pass the test of its row, fail that of the row before, and carry the field (R82, R112). -/
theorem setStartLine_row : ∀ p : Byte, ¬ (0x40 ||| keepBits 6 p) &&& 0xFE = 0xAE ∧
    (0x40 ||| keepBits 6 p) &&& 0xC0 = 0x40 ∧
    (0x40 ||| keepBits 6 p).extractLsb' 0 6 = BitVec.ofNat 6 p.toNat := by decide

/-- What the bytes of a ratio row are not. -/
theorem ratio_other_rows : ∀ b : Byte, b &&& 0xF8 = 0x20 →
    ¬ b &&& 0xFE = 0xAE ∧ ¬ b &&& 0xC0 = 0x40 ∧ ¬ b &&& 0xFE = 0xA0 ∧ ¬ b &&& 0xFE = 0xA6 ∧
      ¬ b &&& 0xFE = 0xA4 ∧ ¬ b &&& 0xFE = 0xA2 ∧ ¬ b &&& 0xF7 = 0xC0 ∧ ¬ b &&& 0xF8 = 0x28 := by decide

theorem setVoltageRegulatorRatio_row : ∀ p : Byte, (0x20 ||| keepBits 3 p) &&& 0xF8 = 0x20 ∧
    (0x20 ||| keepBits 3 p).extractLsb' 0 3 = BitVec.ofNat 3 p.toNat := by decide

theorem setElectronicVolume_row : ∀ p : Byte, keepBits 6 p &&& 0xC0 = 0 ∧
    (keepBits 6 p).extractLsb' 0 6 = BitVec.ofNat 6 p.toNat := by decide

theorem setPage_row : ∀ p : Byte, (0xB0 ||| keepBits 4 p) &&& 0xF0 = 0xB0 ∧
    (0xB0 ||| keepBits 4 p).extractLsb' 0 4 = BitVec.ofNat 4 p.toNat := by decide

theorem setColumn_high_row : ∀ p : Byte, ¬ (0x10 ||| (p >>> 4) : Byte) &&& 0xF0 = 0xB0 ∧
    (0x10 ||| (p >>> 4) : Byte) &&& 0xF0 = 0x10 ∧
    (0x10 ||| (p >>> 4) : Byte).extractLsb' 0 4 = BitVec.ofNat 4 (p.toNat / 16) := by decide

theorem setColumn_low_row : ∀ p : Byte, ¬ (0x00 ||| keepBits 4 p) &&& 0xF0 = 0xB0 ∧
    ¬ (0x00 ||| keepBits 4 p) &&& 0xF0 = 0x10 ∧ (0x00 ||| keepBits 4 p) &&& 0xF0 = 0x00 ∧
    (0x00 ||| keepBits 4 p).extractLsb' 0 4 = BitVec.ofNat 4 p.toNat := by decide

/-! ### The bytes of a command on a sink that waits for one -/

theorem Sink.commandByte_of_boundary {k : Sink} (h : k.reader = .boundary) (b : Byte) :
    k.commandByte b = k.firstByte b := by
  simp only [Sink.commandByte, h]

section
variable {k : Sink} (h : k.reader = .boundary)
include h

theorem Sink.receive_single {b : Byte} (hb : isSingle b = true) :
    k.receive .command [b] =
      { k.forgetRam with regs := SinkRegs.single (Config.freeRegs k.draws) b k.regs } := by
  simp only [isSingle, Bool.and_eq_true, bne_iff_ne, Bool.not_eq_true'] at hb
  obtain ⟨⟨⟨hpage, hhigh⟩, hlow⟩, hargument⟩ := hb
  show k.commandByte b = _
  rw [Sink.commandByte_of_boundary h, Sink.firstByte, if_neg hpage, if_neg hhigh, if_neg hlow,
    if_neg (Bool.eq_false_iff.1 hargument)]

/-- A command that takes an argument, received whole (R87). -/
theorem Sink.receive_withArgument {b : Byte} (hb : needsArgument b = true) (a : Byte) :
    k.receive .command [b, a] =
      { k.forgetRam.forgetRam with
        regs := SinkRegs.argument (Config.freeRegs (k.draws + 1)) b a k.regs, reader := .boundary } := by
  have hfirst : k.firstByte b = { k.forgetRam with reader := .argument b } := by
    obtain (rfl | rfl) | rfl : (b = 0x81 ∨ b = 0xAD) ∨ b = 0xF8 := by simpa [needsArgument] using hb
    · rfl
    · rfl
    · rfl
  show (k.commandByte b).commandByte a = _
  rw [Sink.commandByte_of_boundary h, hfirst]
  rfl

/-- SetPage sets SP and nothing else (R62). -/
theorem Sink.receive_setPage (p : Byte) :
    k.receive .command (encodeCommand (.setPage p)) = { k with page := BitVec.ofNat 4 p.toNat } := by
  obtain ⟨hrow, hfield⟩ := setPage_row p
  show k.commandByte (0xB0 ||| keepBits 4 p) = _
  rw [Sink.commandByte_of_boundary h, Sink.firstByte, if_pos hrow, hfield]

/-- SetColumn sets SC, the upper nibble first, and nothing else (R62, R114). -/
theorem Sink.receive_setColumn (p : Byte) :
    k.receive .command (encodeCommand (.setColumn p)) =
      { k with colHi := BitVec.ofNat 4 (p.toNat / 16), colLo := BitVec.ofNat 4 p.toNat } := by
  obtain ⟨hpage, hrow, hfield⟩ := setColumn_high_row p
  obtain ⟨hpage', hhigh', hrow', hfield'⟩ := setColumn_low_row p
  have hhigh : k.commandByte (0x10 ||| (p >>> 4) : Byte) = { k with colHi := BitVec.ofNat 4 (p.toNat / 16) } := by
    rw [Sink.commandByte_of_boundary h, Sink.firstByte, if_neg hpage, if_pos hrow, hfield]
  have hreader : (k.commandByte (0x10 ||| (p >>> 4) : Byte)).reader = .boundary := by rw [hhigh, h]
  show (k.commandByte (0x10 ||| (p >>> 4) : Byte)).commandByte (0x00 ||| keepBits 4 p) = _
  rw [Sink.commandByte_of_boundary hreader, hhigh, Sink.firstByte, if_neg hpage', if_neg hhigh', if_pos hrow', hfield']

/-! ### The register of each command -/

theorem Sink.displayOnOff_regs (a : Bool) :
    (k.receive .command (encodeCommand (.displayOnOff a))).regs = { k.regs with displayOn := a } := by
  rw [encodeCommand, Sink.receive_single h (isSingle_displayOnOff a)]
  cases a <;> rfl

theorem Sink.adcSelect_regs (a : Bool) :
    (k.receive .command (encodeCommand (.adcSelect a))).regs = { k.regs with adcReverse := a } := by
  rw [encodeCommand, Sink.receive_single h (isSingle_adcSelect a)]
  cases a <;> rfl

theorem Sink.setNormalReverse_regs (a : Bool) :
    (k.receive .command (encodeCommand (.setNormalReverse a))).regs = { k.regs with displayReverse := a } := by
  rw [encodeCommand, Sink.receive_single h (isSingle_setNormalReverse a)]
  cases a <;> rfl

theorem Sink.setAllPointsOn_regs (a : Bool) :
    (k.receive .command (encodeCommand (.setAllPointsOn a))).regs = { k.regs with allPointsOn := a } := by
  rw [encodeCommand, Sink.receive_single h (isSingle_setAllPointsOn a)]
  cases a <;> rfl

theorem Sink.setLcdBias_regs (a : Bool) :
    (k.receive .command (encodeCommand (.setLcdBias a))).regs = { k.regs with bias1 := a } := by
  rw [encodeCommand, Sink.receive_single h (isSingle_setLcdBias a)]
  cases a <;> rfl

theorem Sink.setCommonOutputMode_regs (a : Bool) :
    (k.receive .command (encodeCommand (.setCommonOutputMode a))).regs = { k.regs with commonReverse := a } := by
  rw [encodeCommand, Sink.receive_single h (isSingle_setCommonOutputMode a)]
  cases a <;> rfl

theorem Sink.setPowerControl_regs (a b c : Bool) :
    (k.receive .command (encodeCommand (.setPowerControl a b c))).regs =
      { k.regs with power := BitVec.ofNat 3 (4 * a.toNat + 2 * b.toNat + c.toNat) } := by
  rw [encodeCommand, Sink.receive_single h (isSingle_setPowerControl a b c)]
  cases a <;> cases b <;> cases c <;> rfl

theorem Sink.setStartLine_regs (p : Byte) :
    (k.receive .command (encodeCommand (.setStartLine p))).regs =
      { k.regs with startLine := BitVec.ofNat 6 p.toNat } := by
  obtain ⟨hother, hrow, hfield⟩ := setStartLine_row p
  rw [encodeCommand, Sink.receive_single h (isSingle_setStartLine p), SinkRegs.single, if_neg hother, if_pos hrow,
    hfield]

theorem Sink.setVoltageRegulatorRatio_regs (p : Byte) :
    (k.receive .command (encodeCommand (.setVoltageRegulatorRatio p))).regs =
      { k.regs with ratio := BitVec.ofNat 3 p.toNat } := by
  obtain ⟨hrow, hfield⟩ := setVoltageRegulatorRatio_row p
  obtain ⟨h1, h2, h3, h4, h5, h6, h7, h8⟩ := ratio_other_rows _ hrow
  rw [encodeCommand, Sink.receive_single h (isSingle_setVoltageRegulatorRatio p), SinkRegs.single, if_neg h1,
    if_neg h2, if_neg h3, if_neg h4, if_neg h5, if_neg h6, if_neg h7, if_neg h8, if_pos hrow, hfield]

theorem Sink.setStaticIndicatorNone_regs :
    (k.receive .command (encodeCommand (.setStaticIndicator none))).regs = { k.regs with indicatorOn := false } := by
  rw [encodeCommand, Sink.receive_single h isSingle_setStaticIndicatorNone]
  rfl

theorem Sink.setElectronicVolume_regs (p : Byte) :
    (k.receive .command (encodeCommand (.setElectronicVolume p))).regs =
      { k.regs with volume := BitVec.ofNat 6 p.toNat } := by
  obtain ⟨hkept, hfield⟩ := setElectronicVolume_row p
  rw [encodeCommand, Sink.receive_withArgument h rfl, SinkRegs.argument, if_pos ⟨rfl, hkept⟩, hfield]

theorem Sink.setStaticIndicatorSome_regs (m : IndicatorMode) :
    (k.receive .command (encodeCommand (.setStaticIndicator (some m)))).regs =
      { k.regs with indicatorOn := true, indicatorMode := (indicatorCode m).extractLsb' 0 2 } := by
  rw [encodeCommand, Sink.receive_withArgument h rfl]
  cases m <;> rfl

theorem Sink.setBoosterRatio_regs (r : BoosterRatio) :
    (k.receive .command (encodeCommand (.setBoosterRatio r))).regs =
      { k.regs with booster := (boosterCode r).extractLsb' 0 2 } := by
  rw [encodeCommand, Sink.receive_withArgument h rfl]
  cases r <;> rfl

/-! ### The reader after a command -/

theorem Sink.receive_single_reader {b : Byte} (hb : isSingle b = true) :
    (k.receive .command [b]).reader = .boundary := by
  rw [Sink.receive_single h hb]
  exact h

theorem Sink.receive_withArgument_reader {b : Byte} (hb : needsArgument b = true) (a : Byte) :
    (k.receive .command [b, a]).reader = .boundary := by
  rw [Sink.receive_withArgument h hb]

/-- After a whole command the sink waits for a command again (R87, R89). -/
theorem Sink.receive_encodeCommand_reader (c : Command) :
    (k.receive .command (encodeCommand c)).reader = .boundary := by
  cases c with
  | displayOnOff a => exact Sink.receive_single_reader h (isSingle_displayOnOff a)
  | setStartLine p => exact Sink.receive_single_reader h (isSingle_setStartLine p)
  | setPage p => rw [Sink.receive_setPage h, h]
  | setColumn p => rw [Sink.receive_setColumn h, h]
  | adcSelect a => exact Sink.receive_single_reader h (isSingle_adcSelect a)
  | setNormalReverse a => exact Sink.receive_single_reader h (isSingle_setNormalReverse a)
  | setAllPointsOn a => exact Sink.receive_single_reader h (isSingle_setAllPointsOn a)
  | setLcdBias a => exact Sink.receive_single_reader h (isSingle_setLcdBias a)
  | setCommonOutputMode a => exact Sink.receive_single_reader h (isSingle_setCommonOutputMode a)
  | setPowerControl a b c => exact Sink.receive_single_reader h (isSingle_setPowerControl a b c)
  | setVoltageRegulatorRatio p => exact Sink.receive_single_reader h (isSingle_setVoltageRegulatorRatio p)
  | setElectronicVolume p => exact Sink.receive_withArgument_reader h rfl _
  | setStaticIndicator mode =>
    cases mode with
    | none => exact Sink.receive_single_reader h isSingle_setStaticIndicatorNone
    | some m => exact Sink.receive_withArgument_reader h rfl _
  | setBoosterRatio r => exact Sink.receive_withArgument_reader h rfl _

end

/-- Settles O17: one lemma for each command, and one for the reader. -/
theorem commandsSetTheirControlRegister : Obligations.CommandsSetTheirControlRegister := by
  intro k a b c p m r h
  exact ⟨Sink.displayOnOff_regs h a, Sink.setStartLine_regs h p, Sink.receive_setPage h p,
    Sink.receive_setColumn h p, Sink.adcSelect_regs h a, Sink.setNormalReverse_regs h a,
    Sink.setAllPointsOn_regs h a, Sink.setLcdBias_regs h a, Sink.setCommonOutputMode_regs h a,
    Sink.setPowerControl_regs h a b c, Sink.setVoltageRegulatorRatio_regs h p, Sink.setElectronicVolume_regs h p,
    Sink.setStaticIndicatorNone_regs h, Sink.setStaticIndicatorSome_regs h m, Sink.setBoosterRatio_regs h r,
    Sink.receive_encodeCommand_reader h⟩

end Sys2Proof.Machine
end

section
/-! What an instruction emits and what of the sink it touches: one inversion lemma for `exec`, from which the frames of
the trace and of the sink follow. -/

namespace Sys2Proof.Machine

/-! ### Events added to the trace -/

/-- The trace of the second state is that of the first and then events that all satisfy a predicate. -/
def State.Emits (P : TxEvent → Prop) (s t : State) : Prop := ∃ es, t.trace = s.trace ++ es ∧ ∀ e ∈ es, P e

section
variable {P : TxEvent → Prop} {s t u : State}

theorem State.Emits.of_trace_eq (h : t.trace = s.trace) : s.Emits P t := ⟨[], by simpa using h, by simp⟩

theorem State.Emits.trans (h : s.Emits P t) (k : t.Emits P u) : s.Emits P u := by
  obtain ⟨es, hes, hP⟩ := h
  obtain ⟨fs, hfs, hQ⟩ := k
  refine ⟨es ++ fs, by rw [hfs, hes, List.append_assoc], fun e he => ?_⟩
  exact (List.mem_append.1 he).elim (hP e) (hQ e)

theorem State.Emits.imp {Q : TxEvent → Prop} (h : s.Emits P t) (hPQ : ∀ e, P e → Q e) : s.Emits Q t := by
  obtain ⟨es, hes, hP⟩ := h
  exact ⟨es, hes, fun e he => hPQ e (hP e he)⟩

theorem State.Emits.isPrefix (h : s.Emits P t) : s.trace <+: t.trace := by
  obtain ⟨es, hes, -⟩ := h
  exact ⟨es, hes.symm⟩

theorem State.Emits.of_mem_drop {e : TxEvent} (h : s.Emits P t) (he : e ∈ t.trace.drop s.trace.length) : P e := by
  obtain ⟨es, hes, hP⟩ := h
  rw [hes, List.drop_left] at he
  exact hP e he

theorem State.Emits.transact {ch : Channel} {bs : List Byte} (h : ∀ o, P ⟨ch, bs, o⟩) (s : State) :
    s.Emits P (s.transact ch bs).1 :=
  ⟨_, s.transact_trace ch bs, fun _ he => List.mem_singleton.1 he ▸ h _⟩

end

@[simp] theorem finish_trace (r : State × TxOutcome) : (finish r).trace = r.1.trace := by
  obtain ⟨s, _ | e⟩ := r <;> rfl

@[simp] theorem finish_sink (r : State × TxOutcome) : (finish r).sink = r.1.sink := by
  obtain ⟨s, _ | e⟩ := r <;> rfl

/-! ### The two forms of an event (R64, R65) -/

/-- A whole Command on the command channel. -/
def TxEvent.isCommand (e : TxEvent) : Prop := e.channel = .command ∧ ∃ c, e.bytes = encodeCommand c

/-- A burst of at least one byte on the data channel. -/
def TxEvent.isBurst (e : TxEvent) : Prop := e.channel = .data ∧ e.bytes ≠ []

theorem State.sendCommand_emits (c : Command) (s : State) : s.Emits TxEvent.isCommand (s.sendCommand c).1 :=
  .transact (fun _ => ⟨rfl, c, rfl⟩) s

theorem State.sendCommands_emits (cs : List Command) (s : State) :
    s.Emits TxEvent.isCommand (State.sendCommands cs s).1 :=
  State.sendCommands_rel (fun _ => .of_trace_eq rfl) (fun _ _ _ => .trans) (fun s c => s.sendCommand_emits c) cs s

theorem State.resetInitWith_emits (cs : List Command) (s : State) :
    s.Emits TxEvent.isCommand (s.resetInitWith cs) := by
  unfold State.resetInitWith
  split
  · exact .of_trace_eq rfl
  · exact .trans (.of_trace_eq rfl) ((s.pinPhase.sendCommands_emits cs).trans (.of_trace_eq (finish_trace _)))

theorem State.sendBurst_emits {p start stop : Nat} (h : start < stop) (s : State) :
    s.Emits TxEvent.isBurst (s.sendBurst p start stop).1 := by
  have hbytes : s.fbRun p start (stop - start) ≠ [] :=
    List.ne_nil_of_length_pos (by rw [State.fbRun_length]; omega)
  exact andThen_rel (fun _ _ _ => .trans) (.transact (fun _ => ⟨rfl, hbytes⟩) s) fun _ => .of_trace_eq rfl

/-- What a FLUSH emits. -/
def TxEvent.ofFlush (e : TxEvent) : Prop := e.isCommand ∨ e.isBurst

/-- FLUSH sends no empty burst: a range that it sends has a column (R65, R143). -/
theorem State.flushPage_emits (p : Nat) (s : State) : s.Emits TxEvent.ofFlush (s.flushPage p).1 := by
  have command : ∀ (c : Command) (u : State), u.Emits TxEvent.ofFlush (u.sendCommand c).1 :=
    fun c u => (u.sendCommand_emits c).imp fun _ => .inl
  unfold State.flushPage
  split
  · exact .of_trace_eq rfl
  · rename_i start stop hburst
    obtain ⟨-, hlt, -⟩ := DirtyRange.burst_eq_some.1 hburst
    refine andThen_rel (fun _ _ _ => .trans) (andThen_rel (fun _ _ _ => .trans)
      (andThen_rel (fun _ _ _ => .trans) (command _ s) fun _ => command _ _) fun _ => ?_) fun _ => .of_trace_eq rfl
    exact (State.sendBurst_emits hlt _).imp fun _ => .inr

/-! ### The loop of FLUSH keeps what each page keeps -/

@[simp] theorem State.flushPage_cfg (p : Nat) (s : State) : (s.flushPage p).1.cfg = s.cfg :=
  State.flushPage_rel (R := fun s t => t.cfg = s.cfg) (fun _ => rfl) (fun _ _ _ h k => k.trans h)
    (fun _ _ _ => rfl) (fun _ _ _ _ => rfl) (fun _ _ => rfl) p s

theorem State.flushFrom_keeps {P : State → Prop}
    (page : ∀ s p, p < s.cfg.pages → P s → P (s.flushPage p).1) {n fp : Nat} {s : State}
    (hfit : fp + n ≤ s.cfg.pages) (h : P s) : P (State.flushFrom n fp s).1 := by
  induction n generalizing fp s with
  | zero => exact h
  | succ n ih =>
    have hpage := page s fp (by omega) h
    have hcfg := s.flushPage_cfg fp
    rw [State.flushFrom]
    generalize s.flushPage fp = r at hpage hcfg ⊢
    obtain ⟨u, _ | e⟩ := r
    · exact ih (by rw [hcfg]; omega) hpage
    · exact hpage

theorem State.flushAll_emits (s : State) :
    s.Emits TxEvent.ofFlush (State.flushFrom s.cfg.pages 0 s).1 :=
  State.flushFrom_keeps (fun u p _ h => h.trans (u.flushPage_emits p)) (by omega) (.of_trace_eq rfl)

/-! ### The inversion lemma -/

/-! Past a guard or refused: what holds of both holds of a guarded operation. -/

theorem State.inMode_intro {P : State → Prop} {s : State} {m : Mode} {k : State → State}
    (refused : ∀ r, P (s.refuse r)) (h : s.mode = m → P (k s)) : P (s.inMode m k) := by
  by_cases hm : s.mode = m
  · exact State.inMode_of_eq k hm ▸ h hm
  · exact State.inMode_of_ne k hm ▸ refused _

theorem State.whenAttached_intro {P : State → Prop} {s : State} {k : State → State}
    (refused : ∀ r, P (s.refuse r)) (h : s.att = .attached → P (k s)) : P (s.whenAttached k) := by
  cases ha : s.att with
  | attached => exact State.whenAttached_of_attached k ha ▸ h ha
  | detached => exact State.whenAttached_of_detached k ha ▸ refused _

theorem State.whenDetached_intro {P : State → Prop} {s : State} {k : State → State}
    (refused : ∀ r, P (s.refuse r)) (h : s.att = .detached → P (k s)) : P (s.whenDetached k) := by
  cases ha : s.att with
  | attached => exact State.whenDetached_of_attached k ha ▸ refused _
  | detached => exact State.whenDetached_of_detached k ha ▸ h ha

/-- What an instruction does to the trace and the sink: nothing, or it is one of the three emitters past its guards. -/
inductive Emission : Instr → State → State → Prop
  | silent {i s t} : t.trace = s.trace → t.sink = s.sink → Emission i s t
  | sendCmd {c s} : s.mode = .raw → Emission (.sendCmd c) s (finish (s.sendCommand c))
  | flush {s} : s.mode = .gfx → s.att = .attached → Emission .flush s (finish (State.flushFrom s.cfg.pages 0 s))
  | resetInit {s} : s.att = .attached → Emission .resetInit s (s.resetInitWith (Config.initSequence s.cfg))

theorem Emission.refused (i : Instr) (s : State) (r : RefuseReason) : Emission i s (s.refuse r) := .silent rfl rfl

theorem exec_emission {i : Instr} {s t : State} (h : exec i s = .next t) : Emission i s t := by
  have refused := Emission.refused i s
  cases i with
  | sendCmd c =>
    obtain rfl := Host.Outcome.next.inj h
    exact State.inMode_intro refused .sendCmd
  | setPixel x y color =>
    obtain rfl := Host.Outcome.next.inj h
    refine State.inMode_intro refused fun _ => ?_
    rw [State.setPixel_frame]
    exact .silent rfl rfl
  | flush =>
    obtain rfl := Host.Outcome.next.inj h
    exact State.inMode_intro refused fun hm => State.whenAttached_intro refused (.flush hm)
  | detach =>
    obtain rfl := Host.Outcome.next.inj h
    exact State.inMode_intro refused fun _ => State.whenAttached_intro refused fun _ => .silent rfl rfl
  | attach handle =>
    obtain rfl := Host.Outcome.next.inj h
    exact State.inMode_intro refused fun _ => State.whenDetached_intro refused fun _ => .silent rfl rfl
  | resetInit =>
    obtain rfl := Host.Outcome.next.inj h
    exact State.whenAttached_intro refused .resetInit
  | markAllDirty | getSize | enterRaw | enterGfx =>
    obtain rfl := Host.Outcome.next.inj h
    exact State.inMode_intro refused fun _ => .silent rfl rfl
  | _ =>
    -- the fifteen command rows only return bytes (R110)
    obtain rfl := Host.Outcome.next.inj h
    exact .silent rfl rfl

/-- Settles O42: silent, or an emitter, which holds the transport: outside graphics mode every block does. -/
theorem onlyTheEmittersEmit : Obligations.OnlyTheEmittersEmit := by
  intro i s t hmodes hexec
  cases exec_emission hexec with
  | silent htrace => exact ⟨htrace ▸ List.prefix_refl _, fun _ => htrace, fun _ => htrace⟩
  | @sendCmd c _ hraw =>
    have ha : s.att = .attached := hmodes (by simp [hraw])
    exact ⟨finish_trace _ ▸ (s.sendCommand_emits c).isPrefix, nofun, by simp [ha]⟩
  | flush _ ha => exact ⟨finish_trace _ ▸ s.flushAll_emits.isPrefix, nofun, by simp [ha]⟩
  | resetInit ha => exact ⟨(s.resetInitWith_emits _).isPrefix, nofun, by simp [ha]⟩

/-- Settles O43: what each emitter adds. -/
theorem channelsCarryWhatTheyShould : Obligations.ChannelsCarryWhatTheyShould := by
  intro i s t e hexec he
  cases exec_emission hexec with
  | silent htrace => simp [htrace] at he
  | @sendCmd c =>
    rw [finish_trace] at he
    exact .inl ((s.sendCommand_emits c).of_mem_drop he)
  | flush =>
    rw [finish_trace] at he
    exact (s.flushAll_emits.of_mem_drop he).imp_right fun ⟨hchannel, hbytes⟩ => ⟨hchannel, hbytes, rfl⟩
  | resetInit => exact .inl ((s.resetInitWith_emits _).of_mem_drop he)

end Sys2Proof.Machine
end

section
/-! The reference sink under the transactions of a page: SetPage and SetColumn, whole or cut short, and a burst. -/

namespace Sys2Proof.Machine

/-! ### Data bytes -/

/-- Settles O53: the byte is listed at the pointers' address, which no other cell has. -/
theorem dataByteStoresAndAdvances : Obligations.DataByteStoresAndAdvances := by
  intro k d page col
  refine ⟨?_, k.dataByte_page d, Sink.dataByte_column d, k.dataByte_regs d, k.dataByte_reader d⟩
  have haddr : sinkAddr page col = sinkAddr k.page k.column ↔ page = k.page ∧ col = k.column :=
    ⟨sinkAddr_inj, fun ⟨hpage, hcol⟩ => by rw [hpage, hcol]⟩
  show Memory.lookup (sinkAddr page col) (k.dataByte d).ram = _
  simp only [Sink.dataByte_ram, Memory.lookup_put, haddr, Sink.cell]

end Sys2Proof.Machine
end

section
/-! The reference sink under the transactions of a page: a burst, and SetPage and SetColumn, whole or cut short. -/

namespace Sys2Proof.Machine

/-! ### A burst of data bytes -/

theorem Sink.receive_data_cons (d : Byte) (ds : List Byte) (k : Sink) :
    k.receive .data (d :: ds) = (k.dataByte d).receive .data ds := rfl

@[simp] theorem Sink.receive_data_reader (ds : List Byte) (k : Sink) : (k.receive .data ds).reader = k.reader := by
  induction ds generalizing k with
  | nil => rfl
  | cons d ds ih => rw [Sink.receive_data_cons, ih, Sink.dataByte_reader]

/-- Before the last column the next cell of the page has the next address. -/
theorem sinkAddr_succ (page : BitVec 4) {col : Byte} (h : col ≠ 0xFF) :
    (col + 1).toNat = col.toNat + 1 ∧ sinkAddr page (col + 1) = sinkAddr page col + 1 := by
  have hcol : (col + 1).toNat = col.toNat + 1 := by bv_omega
  exact ⟨hcol, by rw [sinkAddr, hcol, sinkAddr, Nat.add_assoc]⟩

/-- Bytes that end at the last column or before it are listed one after the other from the pointers on (R62). -/
theorem Sink.receive_data_ram (ds : List Byte) {k : Sink} (h : k.column.toNat + ds.length ≤ 256) :
    (k.receive .data ds).ram = Memory.putRun (sinkAddr k.page k.column) ds k.ram := by
  induction ds generalizing k with
  | nil => rfl
  | cons d ds ih =>
    rw [Sink.receive_data_cons, Memory.putRun]
    rw [List.length_cons] at h
    by_cases hlast : k.column = 0xFF
    · obtain rfl : ds = [] := List.length_eq_zero_iff.1 (by
        have hend : k.column.toNat = 255 := by rw [hlast]; rfl
        omega)
      exact k.dataByte_ram d
    · obtain ⟨hcol, haddr⟩ := sinkAddr_succ k.page hlast
      have hnext := Sink.dataByte_column d hlast
      rw [ih (by rw [hnext, hcol]; omega), hnext, Sink.dataByte_page, Sink.dataByte_ram, haddr]

/-! ### Bytes that act on the pointers only -/

/-- A first byte of SetPage, or a byte of SetColumn. -/
def isPointerByte (b : Byte) : Bool := b &&& 0xF0 == 0xB0 || b &&& 0xF0 == 0x10 || b &&& 0xF0 == 0x00

theorem isPointerByte_setPage : ∀ p : Byte, isPointerByte (0xB0 ||| keepBits 4 p) = true := by decide
theorem isPointerByte_setColumn_high : ∀ p : Byte, isPointerByte (0x10 ||| (p >>> 4)) = true := by decide
theorem isPointerByte_setColumn_low : ∀ p : Byte, isPointerByte (0x00 ||| keepBits 4 p) = true := by decide

theorem encodeCommand_setPage_pointer (p : Byte) : ∀ b ∈ encodeCommand (.setPage p), isPointerByte b = true :=
  List.forall_mem_singleton.2 (isPointerByte_setPage p)

theorem encodeCommand_setColumn_pointer (p : Byte) : ∀ b ∈ encodeCommand (.setColumn p), isPointerByte b = true :=
  List.forall_mem_cons.2
    ⟨isPointerByte_setColumn_high p, List.forall_mem_singleton.2 (isPointerByte_setColumn_low p)⟩

theorem Sink.firstByte_pointer {b : Byte} (h : isPointerByte b = true) (k : Sink) :
    (k.firstByte b).ram = k.ram ∧ (k.firstByte b).reader = k.reader := by
  simp only [isPointerByte, Bool.or_eq_true, beq_iff_eq] at h
  by_cases hpage : b &&& 0xF0 = 0xB0
  · rw [Sink.firstByte, if_pos hpage]
    exact ⟨rfl, rfl⟩
  · by_cases hhigh : b &&& 0xF0 = 0x10
    · rw [Sink.firstByte, if_neg hpage, if_pos hhigh]
      exact ⟨rfl, rfl⟩
    · have hlow : b &&& 0xF0 = 0x00 := h.resolve_left (not_or_intro hpage hhigh)
      rw [Sink.firstByte, if_neg hpage, if_neg hhigh, if_pos hlow]
      exact ⟨rfl, rfl⟩

/-- The second sink waits for a command, and has the RAM of the first. -/
def Sink.SettledAs (k k' : Sink) : Prop := k'.reader = .boundary ∧ k'.ram = k.ram

theorem Sink.receive_pointerBytes {k : Sink} (h : k.reader = .boundary) {bs : List Byte}
    (hbs : ∀ b ∈ bs, isPointerByte b = true) : k.SettledAs (k.receive .command bs) := by
  induction bs generalizing k with
  | nil => exact ⟨h, rfl⟩
  | cons b bs ih =>
    obtain ⟨hram, hreader⟩ := Sink.firstByte_pointer (hbs b List.mem_cons_self) k
    show k.SettledAs ((k.commandByte b).receive .command bs)
    rw [Sink.commandByte_of_boundary h]
    obtain ⟨hsettled, hsame⟩ := ih (hreader.trans h) fun b hb => hbs b (List.mem_cons_of_mem _ hb)
    exact ⟨hsettled, hsame.trans hram⟩

theorem Sink.afterFailure_of_boundary {k : Sink} (h : k.reader = .boundary) : k.afterFailure = k := by
  simp only [Sink.afterFailure, h]

/-- A transaction of SetPage or SetColumn, whatever its answer and whatever part of it arrived. -/
theorem Sink.answered_pointerBytes {k : Sink} (h : k.reader = .boundary) {bs : List Byte}
    (hbs : ∀ b ∈ bs, isPointerByte b = true) (a : TxAnswer) : k.SettledAs (k.answered .command bs a) := by
  cases a with
  | ok => exact Sink.receive_pointerBytes h hbs
  | err t n =>
    have hprefix := Sink.receive_pointerBytes h fun b hb => hbs b (List.mem_of_mem_take (i := n) hb)
    rw [Sink.answered, Sink.afterFailure_of_boundary hprefix.1]
    exact hprefix

/-- The two nibbles of SetColumn make up its parameter. -/
theorem columnNibbles_append : ∀ p : Byte, (BitVec.ofNat 4 (p.toNat / 16) ++ BitVec.ofNat 4 p.toNat : Byte) = p := by
  decide

/-! ### Where a cell goes -/

/-- The sink's address of the framebuffer's cell (p, c): no page and no column wraps (R9, R56, R57). -/
theorem sinkAddr_columnAddr {cfg : DisplaySpecs} (hvalid : cfg.valid) {p c : Nat} (hp : p < cfg.pages)
    (hc : c < cfg.width) :
    sinkAddr (BitVec.ofNat 4 p) (columnAddr cfg c) = p * 256 + (cfg.columnOffset + c) := by
  obtain ⟨-, -, -, hpages, hcols⟩ := hvalid
  rw [sinkAddr, columnAddr, BitVec.toNat_ofNat, BitVec.toNat_ofNat, Nat.mod_eq_of_lt (by omega),
    Nat.mod_eq_of_lt (by omega)]

theorem State.fbRun_take (p c n m : Nat) (s : State) : (s.fbRun p c n).take m = s.fbRun p c (min m n) := by
  rw [State.fbRun, ← List.map_take, List.take_range, State.fbRun]

theorem State.fbRun_getElem? {p c n k : Nat} (h : k < n) (s : State) :
    (s.fbRun p c n)[k]? = some (s.fbRead p (c + k)) := by
  simp [State.fbRun, h]

/-! ### What a FLUSH of a page leaves in the sink -/

/-- A valid block whose sink waits for a command: what a FLUSH needs to reach the cells it means. -/
structure State.FlushReady (s : State) : Prop where
  valid : s.cfg.valid
  reader : s.sink.reader = .boundary

/-- The first n cells of a page's burst have arrived, and nothing else of the RAM changed. -/
structure State.SinkGot (p start n : Nat) (s t : State) : Prop where
  reader : t.sink.reader = .boundary
  ram : t.sink.ram =
    Memory.putRun (sinkAddr (BitVec.ofNat 4 p) (columnAddr s.cfg start)) (s.fbRun p start n) s.sink.ram

/-- A FLUSH of a page with what the sink has of it: the page is skipped; or its address fails, of which the RAM sees
nothing; or its burst fails part way, at any byte (R67); or all of it went out. -/
inductive State.PageFlush (p : Nat) (s : State) : State × TxOutcome → Prop
  | skipped : (s.range p).burst s.cfg.width = none → PageFlush p s (s, .ok)
  | addressFailed {start stop u e} : (s.range p).burst s.cfg.width = some (start, stop) → s.Quiet u →
      s.SinkGot p start 0 u → s.trace <+: u.trace → PageFlush p s (u, .err e)
  | burstFailed {start stop n u e before bs} : (s.range p).burst s.cfg.width = some (start, stop) → s.Quiet u →
      n ≤ stop - start → s.SinkGot p start n u → s.trace <+: before →
      u.trace = before ++ [⟨.data, bs, .err e⟩] → PageFlush p s (u, .err e)
  | sent {start stop u} : (s.range p).burst s.cfg.width = some (start, stop) → s.Quiet u →
      s.SinkGot p start (stop - start) u → s.trace <+: u.trace →
      PageFlush p s ((u.noteSent p start (s.fbRun p start (stop - start))).setRange p .clean, .ok)

theorem State.transact_sink_of_ok {s u : State} {ch : Channel} {bs : List Byte} (h : s.transact ch bs = (u, .ok)) :
    u.sink = s.sink.receive ch bs := by
  cases ha : s.answerAt 0 with
  | ok =>
    rw [State.transact_of_ok ch bs ha] at h
    cases h
    rfl
  | err t n =>
    rw [State.transact_of_err ch bs ha] at h
    cases h

/-- SetPage and SetColumn, as FLUSH sends them before the burst of a page (R143). -/
def State.sendAddress (p start : Nat) (s : State) : State × TxOutcome :=
  andThen (State.sendCommand (.setColumn (columnAddr s.cfg start))) (s.sendCommand (.setPage (pageAddr p)))

theorem State.flushPage_of_burst {p start stop : Nat} {s : State}
    (h : (s.range p).burst s.cfg.width = some (start, stop)) :
    s.flushPage p =
      andThen (fun s => (s.setRange p .clean, .ok))
        (andThen (State.sendBurst p start stop) (s.sendAddress p start)) := by
  simp only [State.flushPage, h, State.sendAddress]

theorem State.sendAddress_quiet (p start : Nat) (s : State) : s.Quiet (s.sendAddress p start).1 :=
  andThen_rel (fun _ _ _ => .trans) (s.transact_quiet ..) fun _ => State.transact_quiet ..

theorem State.sendAddress_emits (p start : Nat) (s : State) :
    s.Emits TxEvent.isCommand (s.sendAddress p start).1 :=
  andThen_rel (fun _ _ _ => .trans) (s.sendCommand_emits _) fun _ => State.sendCommand_emits ..

/-- However far the address of a page got, the RAM is untouched. -/
theorem State.sendAddress_settled {s : State} (h : s.sink.reader = .boundary) (p start : Nat) :
    s.sink.SettledAs (s.sendAddress p start).1.sink := by
  refine andThen_rel (R := fun s t => s.sink.reader = .boundary → s.sink.SettledAs t.sink)
    (fun a b c hab hbc ha => ?_) (fun hs => ?_) (fun _ hs => ?_) h
  · obtain ⟨hb, hram⟩ := hab ha
    obtain ⟨hc, hram'⟩ := hbc hb
    exact ⟨hc, hram'.trans hram⟩
  · exact Sink.answered_pointerBytes hs (encodeCommand_setPage_pointer _) _
  · exact Sink.answered_pointerBytes hs (encodeCommand_setColumn_pointer _) _

/-- The address of a page's burst was sent whole: the pointers stand at the burst's first cell (R62). -/
structure State.Addressed (p start : Nat) (s v : State) : Prop where
  quiet : s.Quiet v
  settled : s.sink.SettledAs v.sink
  page : v.sink.page = BitVec.ofNat 4 p
  column : v.sink.column = columnAddr s.cfg start

theorem State.sendAddress_addressed {s u : State} {p start : Nat} (h : s.FlushReady) (hp : p < s.cfg.pages)
    (hsent : s.sendAddress p start = (u, .ok)) : s.Addressed p start u := by
  have hquiet := s.sendAddress_quiet p start
  have hsettled := State.sendAddress_settled h.reader p start
  rw [hsent] at hquiet hsettled
  obtain ⟨v, hpage, hcolumn⟩ := andThen_eq_ok.1 hsent
  have hv : v.sink = { s.sink with page := BitVec.ofNat 4 p } := by
    obtain ⟨-, -, -, hpages, -⟩ := h.valid
    rw [State.transact_sink_of_ok hpage, Sink.receive_setPage h.reader, pageAddr, BitVec.toNat_ofNat,
      Nat.mod_eq_of_lt (by omega)]
  have hreader : v.sink.reader = .boundary := by rw [hv]; exact h.reader
  have hu := State.transact_sink_of_ok hcolumn
  rw [Sink.receive_setColumn hreader, hv] at hu
  exact ⟨hquiet, hsettled, by rw [hu], by rw [hu]; exact columnNibbles_append _⟩

section
variable {s v : State} {p start stop : Nat} (h : s.Addressed p start v) (hvalid : s.cfg.valid) (hlt : start < stop)
  (hstop : stop ≤ s.cfg.width)
include h hvalid hlt hstop

/-- The first bytes of the burst arrive at the cells that they are meant for: no column wraps (R9). -/
theorem State.Addressed.receive_run {n : Nat} (hn : n ≤ stop - start) :
    (v.sink.receive .data (s.fbRun p start n)).ram =
      Memory.putRun (sinkAddr (BitVec.ofNat 4 p) (columnAddr s.cfg start)) (s.fbRun p start n) s.sink.ram := by
  obtain ⟨-, -, -, -, hcols⟩ := hvalid
  have hroom : v.sink.column.toNat + (s.fbRun p start n).length ≤ 256 := by
    rw [h.column, columnAddr, BitVec.toNat_ofNat, State.fbRun_length, Nat.mod_eq_of_lt (by omega)]
    omega
  rw [Sink.receive_data_ram _ hroom, h.page, h.column, h.settled.2]

/-- The burst of a page by its answer: a part of it arrived, or it went out and SENT has it. -/
theorem State.Addressed.sendBurst_cases :
    (∃ u n e bs, v.sendBurst p start stop = (u, .err e) ∧ s.Quiet u ∧ n ≤ stop - start ∧
      s.SinkGot p start n u ∧ u.trace = v.trace ++ [⟨.data, bs, .err e⟩]) ∨
    ∃ u, v.sendBurst p start stop = (u.noteSent p start (s.fbRun p start (stop - start)), .ok) ∧ s.Quiet u ∧
      s.SinkGot p start (stop - start) u ∧ v.trace <+: u.trace := by
  have hbytes := h.quiet.fbRun p start (stop - start)
  have hu := h.quiet.trans (v.transact_quiet .data (s.fbRun p start (stop - start)))
  have hreader : ∀ bs, (v.sink.receive .data bs).reader = .boundary := fun bs =>
    (Sink.receive_data_reader bs v.sink).trans h.settled.1
  cases ha : v.answerAt 0 with
  | ok =>
    rw [State.transact_of_ok _ _ ha] at hu
    refine .inr ⟨_, ?_, hu, ⟨hreader _, h.receive_run hvalid hlt hstop (le_refl _)⟩, List.prefix_append ..⟩
    rw [State.sendBurst, hbytes, State.transact_of_ok _ _ ha]
    rfl
  | err e n =>
    have hn : min n (stop - start) ≤ stop - start := Nat.min_le_right ..
    rw [State.transact_of_err _ _ ha, State.fbRun_take, Sink.afterFailure_of_boundary (hreader _)] at hu
    refine .inl ⟨_, _, e, _, ?_, hu, hn, ⟨hreader _, h.receive_run hvalid hlt hstop hn⟩, rfl⟩
    rw [State.sendBurst, hbytes, State.transact_of_err _ _ ha, State.fbRun_take,
      Sink.afterFailure_of_boundary (hreader _)]
    rfl

end

/-- All that a FLUSH of a page can do, with the sink. -/
theorem State.flushPage_sink {s : State} {p : Nat} (h : s.FlushReady) (hp : p < s.cfg.pages) :
    s.PageFlush p (s.flushPage p) := by
  cases hburst : (s.range p).burst s.cfg.width with
  | none =>
    have hskip : s.flushPage p = (s, .ok) := by simp only [State.flushPage, hburst]
    exact hskip ▸ .skipped hburst
  | some range =>
    obtain ⟨start, stop⟩ := range
    obtain ⟨-, hlt, hstop⟩ := DirtyRange.burst_eq_some.1 hburst
    have hquiet := s.sendAddress_quiet p start
    have hsettled := State.sendAddress_settled h.reader p start
    have htrace := (s.sendAddress_emits p start).isPrefix
    have haddressed := fun u => State.sendAddress_addressed (u := u) (start := start) h hp
    rw [State.flushPage_of_burst hburst]
    generalize s.sendAddress p start = r at hquiet hsettled htrace haddressed ⊢
    obtain ⟨v, _ | e⟩ := r
    · obtain ⟨u, n, e, bs, hsend, hu, hn, hgot, hfailed⟩ | ⟨u, hsend, hu, hgot, hgrows⟩ :=
        (haddressed v rfl).sendBurst_cases h.valid hlt hstop
      · rw [andThen_ok, hsend]
        exact .burstFailed hburst hu hn hgot htrace hfailed
      · rw [andThen_ok, hsend]
        exact .sent hburst hu hgot (htrace.trans hgrows)
    · exact .addressFailed hburst hquiet ⟨hsettled.1, hsettled.2⟩ htrace

end Sys2Proof.Machine
end

section
/-! FLUSH on the reference sink: which cells a page's burst changes, what each page keeps, and which pages are clean
after a FLUSH that returned Ok. -/

namespace Sys2Proof.Machine

/-! ### Cells after a burst, whole or cut short -/

section
variable {s t : State} {p start n : Nat} (hgot : s.SinkGot p start n t) (hvalid : s.cfg.valid) (hp : p < s.cfg.pages)
  (hstart : start < s.cfg.width) (hfit : start + n ≤ s.cfg.width)
include hgot hvalid hp hstart hfit

/-- A cell of the RAM is one of those that arrived, or holds what it held. -/
theorem State.SinkGot.cell_cases (page : BitVec 4) (col : Byte) :
    (∃ c, start ≤ c ∧ c < start + n ∧ page = BitVec.ofNat 4 p ∧ col = columnAddr s.cfg c) ∨
      t.sink.cell page col = s.sink.cell page col := by
  have hfirst := sinkAddr_columnAddr hvalid hp hstart
  rw [Sink.cell, hgot.ram, Memory.lookup_putRun, State.fbRun_length, hfirst]
  split
  · rename_i hrun
    obtain ⟨c, hle, hlt, haddr⟩ : ∃ c, start ≤ c ∧ c < start + n ∧
        sinkAddr page col = p * 256 + (s.cfg.columnOffset + c) :=
      ⟨sinkAddr page col - (p * 256 + s.cfg.columnOffset), by omega, by omega, by omega⟩
    rw [← sinkAddr_columnAddr hvalid hp (by omega)] at haddr
    exact .inl ⟨c, hle, hlt, sinkAddr_inj haddr⟩
  · exact .inr rfl

/-- The display RAM shows the cells that arrived, and of the others what it showed (R56, R57). -/
theorem State.SinkGot.shown (hcfg : t.cfg = s.cfg) {q c : Nat} (hq : q < s.cfg.pages) (hc : c < s.cfg.width) :
    t.shown q c = if q = p ∧ start ≤ c ∧ c < start + n then some (s.fbRead q c) else s.shown q c := by
  have hfirst := sinkAddr_columnAddr hvalid hp hstart
  have hcell := sinkAddr_columnAddr hvalid hq hc
  obtain ⟨-, -, -, -, hcols⟩ := hvalid
  rw [State.shown, hcfg, Sink.cell, hgot.ram, Memory.lookup_putRun, State.fbRun_length]
  by_cases hin : q = p ∧ start ≤ c ∧ c < start + n
  · obtain ⟨rfl, hle, hlt⟩ := hin
    rw [if_pos (by omega), if_pos ⟨rfl, hle, hlt⟩, hcell, hfirst,
      show q * 256 + (s.cfg.columnOffset + c) - (q * 256 + (s.cfg.columnOffset + start)) = c - start by omega,
      State.fbRun_getElem? (by omega), Nat.add_sub_cancel' hle]
  · rw [if_neg (by omega), if_neg hin]
    rfl

end

/-! ### What each page keeps -/

/-- A page's FLUSH leaves the sink waiting for a command, whatever the answers. -/
theorem State.FlushReady.flushPage {s : State} (h : s.FlushReady) {p : Nat} (hp : p < s.cfg.pages) :
    (s.flushPage p).1.FlushReady := by
  refine ⟨by rw [State.flushPage_cfg]; exact h.valid, ?_⟩
  have hpage := State.flushPage_sink h hp
  generalize s.flushPage p = r at hpage ⊢
  cases hpage with
  | skipped => exact h.reader
  | addressFailed _ _ hgot => exact hgot.reader
  | burstFailed _ _ _ hgot => exact hgot.reader
  | sent _ _ hgot => exact hgot.reader

/-- The loop rule for a sink that waits for a command. -/
theorem State.FlushReady.flushAll {P : State → Prop} {s : State} (h : s.FlushReady)
    (page : ∀ s p, s.FlushReady → p < s.cfg.pages → P s → P (s.flushPage p).1) (hP : P s) :
    (State.flushFrom s.cfg.pages 0 s).1.FlushReady ∧ P (State.flushFrom s.cfg.pages 0 s).1 :=
  State.flushFrom_keeps (P := fun s => s.FlushReady ∧ P s)
    (fun s p hp ⟨hready, hs⟩ => ⟨hready.flushPage hp, page s p hready hp hs⟩) (by omega) ⟨h, hP⟩

/-- Of a set of cells, the display RAM shows those that are clean. -/
def State.showsClean (D : Nat → Nat → Prop) (s : State) : Prop :=
  ∀ p c, p < s.cfg.pages → c < s.cfg.width → D p c → (s.range p).covers c = false →
    s.shown p c = some (s.fbRead p c)

/-- It goes on to when some cells arrive and no other cell becomes clean. -/
theorem State.showsClean.arrived {D : Nat → Nat → Prop} {s t : State} {p start n : Nat} (h : s.showsClean D)
    (hvalid : s.cfg.valid) (hp : p < s.cfg.pages) (hstart : start < s.cfg.width) (hfit : start + n ≤ s.cfg.width)
    (hgot : s.SinkGot p start n t) (hcfg : t.cfg = s.cfg) (hfb : t.fb = s.fb)
    (hclean : ∀ q c, (t.range q).covers c = false → ¬ (q = p ∧ start ≤ c ∧ c < start + n) →
      (s.range q).covers c = false) : t.showsClean D := by
  intro q c hq hc hD hcov
  rw [hcfg] at hq hc
  have hread : t.fbRead q c = s.fbRead q c := by rw [State.fbRead, hcfg, hfb, State.fbRead]
  rw [hgot.shown hvalid hp hstart hfit hcfg hq hc, hread]
  split
  · rfl
  · exact h q c hq hc hD (hclean q c hcov ‹_›)

/-- Only the burst's own cells become clean when its page does. -/
theorem State.covers_of_cleaned {s u : State} {p q c start stop : Nat} (hu : s.Quiet u)
    (hrange : s.range p = .dirty start stop) (hclean : ((u.setRange p .clean).range q).covers c = false)
    (hout : ¬ (q = p ∧ start ≤ c ∧ c < stop)) : (s.range q).covers c = false := by
  by_cases hq : q = p
  · rw [hq, hrange]
    exact Bool.eq_false_iff.2 fun hcov => hout ⟨hq, (DirtyRange.covers_dirty ..).1 hcov⟩
  · rwa [State.range_setRange, if_neg fun hsame => hq hsame.1, hu.range] at hclean

theorem State.showsClean.flushPage {D : Nat → Nat → Prop} {s : State} (h : s.showsClean D) (hready : s.FlushReady)
    {p : Nat} (hp : p < s.cfg.pages) : (s.flushPage p).1.showsClean D := by
  have failed : ∀ {start stop n u}, (s.range p).burst s.cfg.width = some (start, stop) → s.Quiet u →
      n ≤ stop - start → s.SinkGot p start n u → u.showsClean D := by
    intro start stop n u hburst hu hn hgot
    obtain ⟨-, hlt, hstop⟩ := DirtyRange.burst_eq_some.1 hburst
    exact h.arrived hready.valid hp (by omega) (by omega) hgot hu.cfg hu.fb fun q c hcov _ => hu.range q ▸ hcov
  have hpage := State.flushPage_sink hready hp
  generalize s.flushPage p = r at hpage ⊢
  cases hpage with
  | skipped => exact h
  | addressFailed hburst hu hgot => exact failed hburst hu (Nat.zero_le _) hgot
  | burstFailed hburst hu hn hgot => exact failed hburst hu hn hgot
  | @sent start stop u hburst hu hgot =>
    obtain ⟨hrange, hlt, hstop⟩ := DirtyRange.burst_eq_some.1 hburst
    have hend : start + (stop - start) = stop := by omega
    refine h.arrived hready.valid hp (by omega) (by omega) ⟨hgot.reader, hgot.ram⟩ hu.cfg hu.fb ?_
    intro q c hcov hout
    rw [hend] at hout
    exact State.covers_of_cleaned hu hrange hcov hout

/-- The display RAM shows what SENT holds: the last sentence of R63 without the reader. -/
def State.showsSent (s : State) : Prop :=
  ∀ p c v, p < s.cfg.pages → c < s.cfg.width → s.sentAt p c = some v → s.shown p c = some v

/-- The bursts between two states were answered Ok. -/
def State.burstsOk (s t : State) : Prop := ∀ e ∈ t.trace.drop s.trace.length, e.channel = .data → e.outcome = .ok

theorem State.burstsOk.of_prefix {s u t : State} (h : s.burstsOk t) (hu : u.trace <+: t.trace) : s.burstsOk u :=
  fun e he => h e ((hu.drop _).subset he)

theorem State.not_burstsOk {s t : State} {before : List TxEvent} {bs : List Byte} {e : TransportError}
    (hbefore : s.trace <+: before) (ht : t.trace = before ++ [⟨.data, bs, .err e⟩]) : ¬ s.burstsOk t := by
  intro h
  have hmem : (⟨.data, bs, .err e⟩ : TxEvent) ∈ t.trace.drop s.trace.length := by
    rw [ht, List.drop_append_of_le_length hbefore.length_le]
    simp
  cases h _ hmem rfl

/-- The trace has grown, and if no burst failed meanwhile the display RAM shows what SENT holds. -/
def State.showsSentSince (s₀ s : State) : Prop := s₀.trace <+: s.trace ∧ (s₀.burstsOk s → s.showsSent)

theorem State.showsSentSince.flushPage {s₀ s : State} (h : s₀.showsSentSince s) (hready : s.FlushReady) {p : Nat}
    (hp : p < s.cfg.pages) : s₀.showsSentSince (s.flushPage p).1 := by
  obtain ⟨hgrown, hshows⟩ := h
  have hpage := State.flushPage_sink hready hp
  generalize s.flushPage p = r at hpage ⊢
  cases hpage with
  | skipped => exact ⟨hgrown, hshows⟩
  | @addressFailed _ _ u _ hburst hu hgot htrace =>
    obtain ⟨-, hlt, hstop⟩ := DirtyRange.burst_eq_some.1 hburst
    refine ⟨hgrown.trans htrace, fun hok q c v hq hc hsent => ?_⟩
    rw [hu.cfg] at hq hc
    have hsame : u.sentAt q c = s.sentAt q c := by rw [State.sentAt, hu.cfg, hu.sent, State.sentAt]
    rw [hgot.shown hready.valid hp (by omega) (by omega) hu.cfg hq hc, if_neg (by omega)]
    exact hshows (hok.of_prefix htrace) q c v hq hc (hsame ▸ hsent)
  | burstFailed _ _ _ _ hbefore hfailed =>
    exact ⟨hgrown.trans (hbefore.trans ⟨_, hfailed.symm⟩), fun hok =>
      absurd hok (State.not_burstsOk (hgrown.trans hbefore) hfailed)⟩
  | @sent start stop u hburst hu hgot htrace =>
    obtain ⟨-, hlt, hstop⟩ := DirtyRange.burst_eq_some.1 hburst
    refine ⟨hgrown.trans htrace, fun hok q c v hq hc hsent => ?_⟩
    have hq : q < s.cfg.pages := by rwa [← hu.cfg]
    have hc : c < s.cfg.width := by rwa [← hu.cfg]
    have hsent := (State.sentAt_noteSent u hu.cfg hu.sent hstop hc).symm.trans hsent
    have hshown := hgot.shown hready.valid hp (by omega) (by omega) hu.cfg hq hc
    rw [Nat.add_sub_cancel' (le_of_lt hlt)] at hshown
    refine hshown.trans ?_
    split at hsent
    · rwa [if_pos ‹_›]
    · rw [if_neg ‹_›]
      exact hshows (hok.of_prefix htrace) q c v hq hc hsent

/-! ### The sink part way through a FLUSH -/

/-- Part way through a FLUSH that began in s₀: no cell became dirty, the cells that were dirty and are clean are shown,
and every other cell of the RAM is as it was. -/
structure State.FlushedFrom (s₀ s : State) : Prop where
  cfg : s.cfg = s₀.cfg
  fb : s.fb = s₀.fb
  ranges : ∀ p c, (s.range p).covers c = true → (s₀.range p).covers c = true
  shown : s.showsClean fun p c => (s₀.range p).covers c = true
  others : ∀ (page : BitVec 4) (col : Byte),
    (∀ p c, p < s₀.cfg.pages → (s₀.range p).covers c = true →
      ¬ (page = BitVec.ofNat 4 p ∧ col = columnAddr s₀.cfg c)) →
    s.sink.cell page col = s₀.sink.cell page col

theorem State.FlushedFrom.refl (s : State) : s.FlushedFrom s :=
  ⟨rfl, rfl, fun _ _ h => h, fun p c _ _ hdirty hclean => absurd hdirty (by simp [hclean]), fun _ _ _ => rfl⟩

theorem State.flushPage_fb (p : Nat) (s : State) : (s.flushPage p).1.fb = s.fb :=
  State.flushPage_rel (R := fun s t => t.fb = s.fb) (fun _ => rfl) (fun _ _ _ h k => k.trans h)
    (fun _ _ _ => rfl) (fun _ _ _ _ => rfl) (fun _ _ => rfl) p s

/-- FLUSH makes no cell dirty. -/
theorem State.covers_of_flushPage {p q c : Nat} {s : State} (h : ((s.flushPage p).1.range q).covers c = true) :
    (s.range q).covers c = true := by
  refine State.flushPage_rel (R := fun s t => (t.range q).covers c = true → (s.range q).covers c = true)
    (fun _ => id) (fun _ _ _ hab hbc => hab ∘ hbc) (fun _ _ _ => id) (fun _ _ _ _ => id) (fun s p h => ?_) p s h
  rw [State.range_setRange] at h
  split at h
  · cases h
  · exact h

/-- Of the RAM a page's FLUSH changes only cells of the page's range. -/
theorem State.cell_flushPage {s : State} (hready : s.FlushReady) {p : Nat} (hp : p < s.cfg.pages) (page : BitVec 4)
    (col : Byte)
    (hother : ∀ c, (s.range p).covers c = true → ¬ (page = BitVec.ofNat 4 p ∧ col = columnAddr s.cfg c)) :
    (s.flushPage p).1.sink.cell page col = s.sink.cell page col := by
  have untouched : ∀ {start stop n u}, (s.range p).burst s.cfg.width = some (start, stop) → n ≤ stop - start →
      s.SinkGot p start n u → u.sink.cell page col = s.sink.cell page col := by
    intro start stop n u hburst hn hgot
    obtain ⟨hrange, hlt, hstop⟩ := DirtyRange.burst_eq_some.1 hburst
    refine (hgot.cell_cases hready.valid hp (by omega) (by omega) page col).resolve_left ?_
    rintro ⟨c, hle, hc, hcell⟩
    exact hother c (by rw [hrange, DirtyRange.covers_dirty]; omega) hcell
  have hpage := State.flushPage_sink hready hp
  generalize s.flushPage p = r at hpage ⊢
  cases hpage with
  | skipped => rfl
  | addressFailed hburst _ hgot => exact untouched hburst (Nat.zero_le _) hgot
  | burstFailed hburst _ hn hgot => exact untouched hburst hn hgot
  | sent hburst _ hgot => exact untouched hburst (le_refl _) ⟨hgot.reader, hgot.ram⟩

theorem State.FlushedFrom.flushPage {s₀ s : State} (h : s₀.FlushedFrom s) (hready : s.FlushReady) {p : Nat}
    (hp : p < s.cfg.pages) : s₀.FlushedFrom (s.flushPage p).1 where
  cfg := (s.flushPage_cfg p).trans h.cfg
  fb := (s.flushPage_fb p).trans h.fb
  ranges := fun q c hcov => h.ranges q c (State.covers_of_flushPage hcov)
  shown := h.shown.flushPage hready hp
  others := fun page col hother =>
    (State.cell_flushPage hready hp page col fun c hcov =>
      h.cfg ▸ hother p c (h.cfg ▸ hp) (h.ranges p c hcov)).trans (h.others page col hother)

/-! ### Clean pages -/

theorem State.rangesWf.flushPage {s : State} (h : s.rangesWf) (p : Nat) : (s.flushPage p).1.rangesWf :=
  State.flushPage_rel (R := fun s t => s.rangesWf → t.rangesWf) (fun _ => id) (fun _ _ _ hab hbc => hbc ∘ hab)
    (fun _ _ _ => id) (fun _ _ _ _ => id) (fun _ p hs => hs.setRange p rfl) p s h

/-- Once clean, a page stays clean in the rest of a FLUSH. -/
theorem State.clean_of_flushFrom {s : State} {q : Nat} (h : s.range q = .clean) (n fp : Nat) :
    (State.flushFrom n fp s).1.range q = .clean := by
  refine State.flushFrom_rel (R := fun s t => s.range q = .clean → t.range q = .clean)
    (fun _ => id) (fun _ _ _ hab hbc => hbc ∘ hab) (fun _ _ _ => id) (fun _ _ _ _ => id) (fun s p hs => ?_) n fp s h
  rw [State.range_setRange]
  split
  · rfl
  · exact hs

/-- A page whose FLUSH ended Ok is clean: it was sent, or had nothing pending. -/
theorem State.clean_of_flushPage_ok {s u : State} {p : Nat} (hwf : s.rangesWf) (h : s.flushPage p = (u, .ok)) :
    u.range p = .clean := by
  obtain ⟨hburst, heq⟩ | ⟨start, stop, v, hburst, hv, ⟨e, heq⟩ | heq⟩ := s.flushPage_cases p <;> rw [heq] at h
  · cases h
    have hp := hwf.range_wf p
    cases hrange : s.range p with
    | clean => rfl
    | dirty a b =>
      rw [hrange, DirtyRange.wf_dirty] at hp
      exact absurd (DirtyRange.burst_eq_some.2 ⟨hrange, hp⟩) (by simp [hburst])
  · cases h
  · cases h
    obtain ⟨hrange, hlt, hstop⟩ := DirtyRange.burst_eq_some.1 hburst
    have hpage : p < v.dr.length := by
      have hcov : (s.range p).covers start = true := by rw [hrange, DirtyRange.covers_dirty]; omega
      rw [hv.dr, hwf.1]
      exact (hwf.of_covers hcov).1
    rw [State.range_setRange, if_pos ⟨rfl, hpage⟩]

/-- After a FLUSH that ended Ok every page it came to is clean. -/
theorem State.clean_of_flushFrom_ok {n fp q : Nat} {s t : State} (hwf : s.rangesWf)
    (h : State.flushFrom n fp s = (t, .ok)) (hle : fp ≤ q) (hlt : q < fp + n) : t.range q = .clean := by
  induction n generalizing fp s with
  | zero => omega
  | succ n ih =>
    obtain ⟨u, hpage, hrest⟩ := andThen_eq_ok.1 h
    by_cases hq : q = fp
    · subst hq
      have hstays := State.clean_of_flushFrom (State.clean_of_flushPage_ok hwf hpage) n (q + 1)
      rwa [hrest] at hstays
    · have hu : u.rangesWf := by simpa only [hpage] using hwf.flushPage fp
      exact ih hu hrest (by omega) (by omega)

/-- A FLUSH that returned Ok ran its loop to the end. -/
theorem exec_flush_ok {s t : State} (hm : s.mode = .gfx) (ha : s.att = .attached) (hexec : exec .flush s = .next t)
    (hok : t.result = some (.ok .none)) :
    ∃ u, State.flushFrom s.cfg.pages 0 s = (u, .ok) ∧ t = u.complete .none := by
  have ht : finish (State.flushFrom s.cfg.pages 0 s) = t := by
    rw [← Host.Outcome.next.inj hexec, flushOp, State.inMode_of_eq _ hm, State.whenAttached_of_attached _ ha]
  subst ht
  generalize State.flushFrom s.cfg.pages 0 s = r at hok ⊢
  obtain ⟨u, _ | e⟩ := r
  · exact ⟨u, rfl, rfl⟩
  · cases hok

/-- Settles O25: every page is clean, and so the law of SENT speaks of every cell. -/
theorem flushOkSynchronises : Obligations.FlushOkSynchronises := by
  intro s t hinv hm ha hexec hok p hp
  have hsent := (hinv.exec hexec).sent
  obtain ⟨hcfg, -⟩ := writersOfEachElement _ _ _ hexec
  obtain ⟨u, hloop, rfl⟩ := exec_flush_ok hm ha hexec hok
  have hlt : p < 0 + s.cfg.pages := by rw [← hcfg]; omega
  have hclean : u.range p = .clean := State.clean_of_flushFrom_ok hinv.ranges hloop (Nat.zero_le p) hlt
  refine ⟨hclean, fun c hc => hsent p c hp hc ?_⟩
  show (u.range p).covers c = false
  rw [hclean]
  rfl

/-- Settles O26: at the end of the loop every cell that was dirty is clean, and so it is shown. -/
theorem flushOkWritesTheDirtyCellsOfTheSink : Obligations.FlushOkWritesTheDirtyCellsOfTheSink := by
  intro s t hvalid hwf hm ha hreader hexec hok
  obtain ⟨u, hloop, rfl⟩ := exec_flush_ok hm ha hexec hok
  have hready : s.FlushReady := ⟨hvalid, hreader⟩
  obtain ⟨-, hflushed⟩ := hready.flushAll (P := s.FlushedFrom) (fun _ _ hu hp h => h.flushPage hu hp) (.refl s)
  rw [hloop] at hflushed
  refine ⟨fun p c hp hc hcov => ?_, hflushed.others⟩
  have hclean := State.clean_of_flushFrom_ok hwf hloop (Nat.zero_le p) (by omega)
  have hread : u.fbRead p c = s.fbRead p c := by rw [State.fbRead, hflushed.cfg, hflushed.fb, State.fbRead]
  exact hread ▸ hflushed.shown p c (hflushed.cfg ▸ hp) (hflushed.cfg ▸ hc) hcov (by rw [hclean]; rfl)

/-- Settles O27: MARK_ALL_DIRTY makes every cell dirty, and the FLUSH writes every dirty cell. -/
theorem markAllDirtyThenFlushResynchronises : Obligations.MarkAllDirtyThenFlushResynchronises := by
  intro s t u hvalid _ hm ha hreader hmark hflush hok p c hp hc
  obtain rfl : s.setAllRanges.complete .none = t := by
    rw [← Host.Outcome.next.inj hmark, markAllDirtyOp, State.inMode_of_eq _ hm]
  obtain ⟨hshown, -⟩ := flushOkWritesTheDirtyCellsOfTheSink (s.setAllRanges.complete .none) u hvalid
    (.of_all_full hvalid.1 rfl) hm ha hreader hflush hok
  exact hshown p c hp hc (State.covers_of_all_full (s := s.setAllRanges) rfl hp hc)

end Sys2Proof.Machine
end

section
/-! The two laws of the display RAM along a step: it shows the framebuffer outside the dirty ranges, and it shows what
SENT holds. -/

namespace Sys2Proof.Machine

/-! ### The display RAM and the framebuffer -/

theorem State.sinkInSync_iff {s : State} :
    s.sinkInSync ↔ (s.mode ≠ .raw → s.sink.reader = .boundary) ∧ s.showsClean fun _ _ => True := by
  simp only [State.sinkInSync, State.showsClean, true_implies]

/-- A change of neither the page buffer nor the sink, and not of the mode out of raw. -/
theorem State.sinkInSync.of_same_buffer {s t : State} (h : s.sinkInSync) (hcfg : t.cfg = s.cfg) (hfb : t.fb = s.fb)
    (hdr : t.dr = s.dr) (hsink : t.sink = s.sink) (hmode : t.mode ≠ .raw → s.mode ≠ .raw) : t.sinkInSync := by
  obtain ⟨hreader, hshown⟩ := h
  refine ⟨fun hm => hsink ▸ hreader (hmode hm), ?_⟩
  simpa only [State.shown, State.range, State.fbRead, hcfg, hfb, hdr, hsink] using hshown

theorem State.sinkInSync.of_quiet {s t : State} (h : s.sinkInSync) (q : s.Quiet t) (hsink : t.sink = s.sink) :
    t.sinkInSync :=
  h.of_same_buffer q.cfg q.fb q.dr hsink fun hm => q.mode ▸ hm

/-- In raw mode nothing was drawn or sent, and nothing is asked of the sink's reader. -/
theorem State.Inv.sinkInSync_of_raw {s : State} (h : s.Inv) (hraw : s.mode = .raw) : s.sinkInSync := by
  obtain ⟨-, -, hdr, -⟩ := h.modes (by simp [hraw])
  exact ⟨fun hm => absurd hraw hm, fun _ _ hp hc hclean =>
    absurd (State.covers_of_all_full hdr hp hc) (Bool.eq_false_iff.1 hclean)⟩

/-- A byte that is clean after SET_PIXEL was clean before, and is what it was. -/
theorem State.setPixel_clean {s : State} {x y : Int} {color : Color} {p c : Nat} (hs : Memory.sorted s.fb = true)
    (hpage : p < s.dr.length) (hc : c < s.cfg.width)
    (hclean : ((s.setPixel x y color).range p).covers c = false) :
    (s.range p).covers c = false ∧ (s.setPixel x y color).fbRead p c = s.fbRead p c := by
  constructor
  · exact Bool.eq_false_iff.2 fun hcov => absurd (State.setPixel_covers x y color hcov) (Bool.eq_false_iff.1 hclean)
  · by_contra hne
    exact absurd (State.setPixel_changed_covers hs hpage hc hne) (Bool.eq_false_iff.1 hclean)

theorem State.sinkInSync.setPixel {s : State} (h : s.sinkInSync) (hs : Memory.sorted s.fb = true)
    (hpages : s.dr.length = s.cfg.pages) (x y : Int) (color : Color) : (s.setPixel x y color).sinkInSync := by
  obtain ⟨hreader, hshown⟩ := h
  have hframe := s.setPixel_frame x y color
  refine ⟨by rw [hframe]; exact hreader, fun p c hp hc hclean => ?_⟩
  have hsame : (s.setPixel x y color).shown p c = s.shown p c := by rw [hframe]; rfl
  rw [hframe] at hp hc
  obtain ⟨hold, hread⟩ := State.setPixel_clean hs (hpages ▸ hp) hc hclean
  rw [hsame, hread]
  exact hshown p c hp hc hold

/-- FLUSH keeps the display RAM in sync, wherever a transaction fails (R67). -/
theorem State.sinkInSync.flush {s : State} (h : s.sinkInSync) (hvalid : s.cfg.valid) (hm : s.mode = .gfx) :
    (finish (State.flushFrom s.cfg.pages 0 s)).sinkInSync := by
  obtain ⟨hreader, hshown⟩ := State.sinkInSync_iff.1 h
  have hready : s.FlushReady := ⟨hvalid, hreader (by simp [hm])⟩
  obtain ⟨hend, hsync⟩ := hready.flushAll (fun _ _ hu hp h => h.flushPage hu hp) hshown
  exact (State.sinkInSync_iff.2 ⟨fun _ => hend.reader, hsync⟩).of_quiet (finish_quiet _) (finish_sink _)

/-- Every instruction but RESET_INIT keeps the display RAM in sync. -/
theorem State.sinkInSync.exec {i : Instr} {s t : State} (h : s.sinkInSync) (hinv : s.Inv) (hi : i ≠ .resetInit)
    (hexec : exec i s = .next t) : t.sinkInSync := by
  cases exec_effect hexec with
  | quiet q =>
    cases exec_emission hexec with
    | silent _ hsink => exact h.of_quiet q hsink
    | sendCmd hraw => exact (hinv.exec hexec).sinkInSync_of_raw (q.mode.trans hraw)
    | flush hm => exact h.flush hinv.cfgValid hm
    | resetInit => exact absurd rfl hi
  | enterRaw hm => exact h.of_same_buffer rfl rfl rfl rfl fun _ => by simp [hm]
  | enterGfx hm => exact h.of_same_buffer rfl rfl rfl rfl fun _ => by simp [hm]
  | detach => exact h.of_same_buffer rfl rfl rfl rfl id
  | attach => exact h.of_same_buffer rfl rfl rfl rfl id
  | setPixel =>
    have hs : Memory.sorted s.fb = true := (Bool.and_eq_true_iff.1 hinv.memories.1).1
    exact (h.setPixel hs hinv.ranges.1 ..).of_quiet (State.complete_quiet ..) rfl
  | markAllDirty =>
    exact ⟨h.1, fun _ _ hp hc hclean =>
      absurd (State.covers_of_all_full (s := s.setAllRanges) rfl hp hc) (Bool.eq_false_iff.1 hclean)⟩
  | flush hm => exact h.flush hinv.cfgValid hm

/-- Settles O52: the input is taken off, and every instruction but RESET_INIT keeps the display RAM in sync. -/
theorem stepKeepsTheSinkInSync : Obligations.StepKeepsTheSinkInSync := by
  intro s t hinv h hstep hforeign hreset
  cases step_effect hstep with
  | idle => exact h
  | foreign hinputs => exact absurd hinputs (hforeign _ _ _)
  | reserved => exact h.of_same_buffer rfl rfl rfl rfl id
  | @run _ bs later i rest hinputs hdecode hexec =>
    have htaken : ({ s with inputs := later } : State).sinkInSync := h.of_same_buffer rfl rfl rfl rfl id
    exact htaken.exec (hinv.withInputs later) (fun hi => hreset bs later rest hinputs (hi ▸ hdecode)) hexec

/-! ### The display RAM and SENT -/

/-- A change of neither SENT nor the sink, and not of the mode out of raw. -/
theorem State.sinkShowsSent.of_same_sent {s t : State} (h : s.sinkShowsSent) (hcfg : t.cfg = s.cfg)
    (hsent : t.sent = s.sent) (hsink : t.sink = s.sink) (hmode : t.mode ≠ .raw → s.mode ≠ .raw) :
    t.sinkShowsSent := by
  obtain ⟨hreader, hshown⟩ := h
  refine ⟨fun hm => hsink ▸ hreader (hmode hm), ?_⟩
  simpa only [State.shown, State.sentAt, hcfg, hsent, hsink] using hshown

theorem State.sinkShowsSent.of_quiet {s t : State} (h : s.sinkShowsSent) (q : s.Quiet t) (hsink : t.sink = s.sink) :
    t.sinkShowsSent :=
  h.of_same_sent q.cfg q.sent hsink fun hm => q.mode ▸ hm

/-- Outside graphics mode nothing was sent, and only the reader matters. -/
theorem State.Inv.sinkShowsSent_of_not_gfx {s : State} (h : s.Inv) (hm : s.mode ≠ .gfx)
    (hreader : s.mode ≠ .raw → s.sink.reader = .boundary) : s.sinkShowsSent := by
  obtain ⟨-, -, -, hsent⟩ := h.modes hm
  refine ⟨hreader, fun p c v _ _ hv => ?_⟩
  rw [State.sentAt, hsent] at hv
  cases hv

/-- FLUSH keeps it if no burst failed. -/
theorem State.sinkShowsSent.flush {s : State} (h : s.sinkShowsSent) (hvalid : s.cfg.valid) (hm : s.mode = .gfx)
    (hbursts : s.burstsOk (finish (State.flushFrom s.cfg.pages 0 s))) :
    (finish (State.flushFrom s.cfg.pages 0 s)).sinkShowsSent := by
  obtain ⟨hreader, hshown⟩ := h
  have hready : s.FlushReady := ⟨hvalid, hreader (by simp [hm])⟩
  obtain ⟨hend, -, hshows⟩ := hready.flushAll (P := s.showsSentSince) (fun _ _ hu hp h => h.flushPage hu hp)
    ⟨List.prefix_refl _, fun _ => hshown⟩
  rw [State.burstsOk, finish_trace] at hbursts
  have hloop : (State.flushFrom s.cfg.pages 0 s).1.sinkShowsSent := ⟨fun _ => hend.reader, hshows hbursts⟩
  exact hloop.of_quiet (finish_quiet _) (finish_sink _)

/-- Commands that were all answered Ok leave a sink that waited for one waiting for one. -/
theorem State.sendCommands_reader {cs : List Command} {s t : State} (h : State.sendCommands cs s = (t, .ok))
    (hreader : s.sink.reader = .boundary) : t.sink.reader = .boundary := by
  induction cs generalizing s with
  | nil =>
    cases h
    exact hreader
  | cons c cs ih =>
    obtain ⟨u, hfirst, hrest⟩ := andThen_eq_ok.1 h
    refine ih hrest ?_
    rw [State.transact_sink_of_ok hfirst]
    exact Sink.receive_encodeCommand_reader hreader c

/-- The chip's reset leaves the reader where it was, and a RESET_INIT without a transport error ends after a command
(R209). -/
theorem State.resetInitWith_reader {cs : List Command} {s : State}
    (hok : ∀ e, (s.resetInitWith cs).result ≠ some (.err (.communicationError e)))
    (hreader : s.sink.reader = .boundary) : (s.resetInitWith cs).sink.reader = .boundary := by
  unfold State.resetInitWith at hok ⊢
  split at hok
  · exact hreader
  · obtain ⟨hsent, -⟩ | ⟨e, -, hfailed⟩ := finish_cases (State.sendCommands cs s.pinPhase)
    · rw [finish_sink]
      exact State.sendCommands_reader (Prod.ext rfl hsent) hreader
    · exact absurd (by rw [hfailed]; rfl) (hok e)

/-- Every instruction keeps it, but a FLUSH with a failed burst (R67) and a RESET_INIT that loses the RAM or may stop
inside a command (R167, R206, R209). -/
theorem State.sinkShowsSent.exec {i : Instr} {s t : State} (h : s.sinkShowsSent) (hinv : s.Inv)
    (hexec : exec i s = .next t) (hbursts : s.burstsOk t)
    (hreset : i = .resetInit → s.att = .detached ∨ s.mode = .raw ∨
      (s.mode = .uninit ∧ ∀ e, t.result ≠ some (.err (.communicationError e)))) : t.sinkShowsSent := by
  have hinv' := hinv.exec hexec
  cases exec_effect hexec with
  | quiet q =>
    have of_raw (hraw : s.mode = .raw) : t.sinkShowsSent :=
      hinv'.sinkShowsSent_of_not_gfx (by simp [q.mode, hraw]) fun hm => absurd (q.mode.trans hraw) hm
    cases exec_emission hexec with
    | silent _ hsink => exact h.of_quiet q hsink
    | sendCmd hraw => exact of_raw hraw
    | flush hm => exact h.flush hinv.cfgValid hm hbursts
    | resetInit ha =>
      obtain hd | hraw | ⟨hm, hok⟩ := hreset rfl
      · exact absurd hd (by simp [ha])
      · exact of_raw hraw
      · exact hinv'.sinkShowsSent_of_not_gfx (by simp [q.mode, hm]) fun _ =>
          State.resetInitWith_reader hok (h.1 (by simp [hm]))
  | enterRaw hm => exact h.of_same_sent rfl rfl rfl fun _ => by simp [hm]
  | enterGfx hm => exact h.of_same_sent rfl rfl rfl fun _ => by simp [hm]
  | detach => exact h.of_same_sent rfl rfl rfl id
  | attach => exact h.of_same_sent rfl rfl rfl id
  | setPixel =>
    rw [State.setPixel_frame]
    exact h.of_same_sent rfl rfl rfl id
  | markAllDirty => exact h.of_same_sent rfl rfl rfl id
  | flush hm => exact h.flush hinv.cfgValid hm hbursts

/-- Settles O54: the input is taken off, and the instruction keeps what the display RAM shows of SENT. -/
theorem stepKeepsSinkShowsSent : Obligations.StepKeepsSinkShowsSent := by
  intro s t hinv h hstep hforeign hbursts hreset
  cases step_effect hstep with
  | idle => exact h
  | foreign hinputs => exact absurd hinputs (hforeign _ _ _)
  | reserved => exact h.of_same_sent rfl rfl rfl id
  | @run _ bs later i rest hinputs hdecode hexec =>
    have htaken : ({ s with inputs := later } : State).sinkShowsSent := h.of_same_sent rfl rfl rfl id
    exact htaken.exec (hinv.withInputs later) hexec hbursts fun hi => hreset bs later rest hinputs (hi ▸ hdecode)

end Sys2Proof.Machine
end

section
/-! What the decoder can do with a request, by its first byte: read the operands, or reject that byte. -/

namespace Sys2Proof

/-! ### Readers of operands -/

/-- A reader of operands takes bytes off the front and does not look at those after them, or it rejects an operand that is
missing or has no meaning (notes/assumptions/2.md). -/
def ReadsOperands (read : List Byte → Decoded) : Prop :=
  ∀ bs, (∃ i left, read bs = .ok (i, left) ∧ ∀ rest, read (bs ++ rest) = .ok (i, left ++ rest)) ∨
    read bs = .error .cutShort ∨ ∃ a, read bs = .error (.badOperand a)

theorem readsOperands_nothing (i : Instr) : ReadsOperands fun bs => .ok (i, bs) :=
  fun bs => .inl ⟨i, bs, rfl, fun _ => rfl⟩

theorem readsOperands_decodeArgument (meaning : Byte → Option Instr) : ReadsOperands (decodeArgument meaning)
  | [] => .inr (.inl rfl)
  | a :: bs => by
    cases hm : meaning a with
    | some i => exact .inl ⟨i, bs, by simp [decodeArgument, hm], by simp [decodeArgument, hm]⟩
    | none => exact .inr (.inr ⟨a, by simp [decodeArgument, hm]⟩)

theorem readsOperands_decodeSendCmd : ReadsOperands decodeSendCmd
  | [] | [_] => .inr (.inl rfl)
  | tag :: param :: bs => by
    cases hc : commandOf tag param with
    | some c => exact .inl ⟨.sendCmd c, bs, by simp [decodeSendCmd, hc], by simp [decodeSendCmd, hc]⟩
    | none => exact .inr (.inr ⟨tag, by simp [decodeSendCmd, hc]⟩)

theorem readsOperands_decodeSetPixel : ReadsOperands decodeSetPixel
  | [] | [_] | [_, _] | [_, _, _] | [_, _, _, _] => .inr (.inl rfl)
  | xh :: xl :: yh :: yl :: c :: bs => by
    cases hc : colorOf c with
    | some color =>
      exact .inl ⟨.setPixel (coordOf xh xl) (coordOf yh yl) color, bs, by simp [decodeSetPixel, hc],
        by simp [decodeSetPixel, hc]⟩
    | none => exact .inr (.inr ⟨c, by simp [decodeSetPixel, hc]⟩)

theorem readsOperands_decodeAttach : ReadsOperands decodeAttach
  | [] => .inr (.inl rfl)
  | h :: bs => .inl ⟨.attach h, bs, rfl, fun _ => rfl⟩

/-! ### The first byte of a request -/

/-- The bytes after a first byte are read as operands, or that byte is rejected whatever they are. -/
def ReadsOrRejects (r : Reject) (read : List Byte → Decoded) : Prop :=
  ReadsOperands read ∨ ∀ bs, read bs = .error r

theorem ReadsOrRejects.ite {r : Reject} {p : Prop} [Decidable p] {read other : List Byte → Decoded}
    (hread : ReadsOperands read) (hother : ReadsOrRejects r other) :
    ReadsOrRejects r fun bs => if p then read bs else other bs := by
  by_cases hp : p
  · simp only [if_pos hp]
    exact .inl hread
  · simp only [if_neg hp]
    exact hother

/-- A selector has its operands, or is reserved (R91, R92). -/
theorem decodeHostOp_readsOrRejects (opsel : Byte) : ReadsOrRejects (.reservedOp opsel) (decodeHostOp opsel) :=
  .ite readsOperands_decodeSendCmd <| .ite readsOperands_decodeSetPixel <|
  .ite (readsOperands_nothing _) <| .ite (readsOperands_nothing _) <| .ite (readsOperands_nothing _) <|
  .ite readsOperands_decodeAttach <| .ite (readsOperands_nothing _) <| .ite (readsOperands_nothing _) <|
  .ite (readsOperands_nothing _) <| .ite (readsOperands_nothing _) <| .inr fun _ => rfl

/-- The first byte of a command row has the row's second byte for an operand, if there is one; any other byte begins none
(R86, R87). -/
theorem decodeCommandRow_readsOrRejects (b : Byte) : ReadsOrRejects (.noCommand b) (decodeCommandRow b) :=
  .ite (readsOperands_nothing _) <| .ite (readsOperands_nothing _) <| .ite (readsOperands_nothing _) <|
  .ite (readsOperands_decodeArgument _) <| .ite (readsOperands_nothing _) <| .ite (readsOperands_nothing _) <|
  .ite (readsOperands_nothing _) <| .ite (readsOperands_nothing _) <| .ite (readsOperands_nothing _) <|
  .ite (readsOperands_nothing _) <| .ite (readsOperands_nothing _) <| .ite (readsOperands_decodeArgument _) <|
  .ite (readsOperands_nothing _) <| .ite (readsOperands_decodeArgument _) <|
  .ite (readsOperands_decodeArgument _) <| .inr fun _ => rfl

/-- All that a request can be, by its first byte. -/
theorem decode_cons_cases (b : Byte) :
    ReadsOperands (fun rest => decode (b :: rest)) ∨ (∀ rest, decode (b :: rest) = .error (.reservedOp b)) ∨
      ∀ rest, decode (b :: rest) = .error (.noCommand b) := by
  by_cases hb : b.toNat < 16
  · simp only [decode, if_pos hb]
    exact (decodeHostOp_readsOrRejects b).imp_right .inl
  · simp only [decode, if_neg hb]
    exact (decodeCommandRow_readsOrRejects b).imp_right .inr

/-- Bytes after the last operand are not looked at (notes/assumptions/2.md). -/
theorem decode_append_of_ok {bs left : List Byte} {i : Instr} (h : decode bs = .ok (i, left)) (rest : List Byte) :
    decode (bs ++ rest) = .ok (i, left ++ rest) := by
  cases bs with
  | nil => cases h
  | cons b bs =>
    obtain hreads | hreserved | hnone := decode_cons_cases b
    · obtain ⟨j, left', hj, happend⟩ | hcut | ⟨a, hbad⟩ := hreads bs
      · cases hj.symm.trans h
        exact happend rest
      · cases hcut.symm.trans h
      · cases hbad.symm.trans h
    · cases (hreserved bs).symm.trans h
    · cases (hnone bs).symm.trans h

/-! ### Rejected first bytes -/

/-- Operands are not rejected for the request's first byte. -/
theorem ReadsOperands.ne_first_byte_error {read : List Byte → Decoded} (h : ReadsOperands read) (bs : List Byte)
    (b : Byte) : read bs ≠ .error (.reservedOp b) ∧ read bs ≠ .error (.noCommand b) := by
  obtain ⟨i, left, hok, -⟩ | hcut | ⟨a, hbad⟩ := h bs
  · simp [hok]
  · simp [hcut]
  · simp [hbad]

/-- A reserved selector shows on a request of that byte alone. -/
theorem decode_cons_reservedOp_iff {b opsel : Byte} {rest : List Byte} :
    decode (b :: rest) = .error (.reservedOp opsel) ↔ opsel = b ∧ decode [b] = .error (.reservedOp b) := by
  obtain hreads | hreserved | hnone := decode_cons_cases b
  · exact iff_of_false (hreads.ne_first_byte_error rest opsel).1 fun h => (hreads.ne_first_byte_error [] b).1 h.2
  · simp [hreserved, eq_comm]
  · simp [hnone]

/-- A first byte that begins no request shows on a request of that byte alone. -/
theorem decode_cons_noCommand_iff {b first : Byte} {rest : List Byte} :
    decode (b :: rest) = .error (.noCommand first) ↔ first = b ∧ decode [b] = .error (.noCommand b) := by
  obtain hreads | hreserved | hnone := decode_cons_cases b
  · exact iff_of_false (hreads.ne_first_byte_error rest first).2 fun h => (hreads.ne_first_byte_error [] b).2 h.2
  · simp [hreserved]
  · simp [hnone, eq_comm]

theorem decode_singleton_reservedOp_iff : ∀ b : Byte,
    decode [b] = .error (.reservedOp b) ↔ b.toNat = 0 ∨ (11 ≤ b.toNat ∧ b.toNat ≤ 15) := by decide

theorem decode_singleton_noCommand_iff : ∀ b : Byte,
    decode [b] = .error (.noCommand b) ↔ neverFirst b = true := by decide

/-- Settles O10: the rejection is read off the request of one byte, for each of its 256 values. -/
theorem reservedSelectorsAreRejected : Obligations.ReservedSelectorsAreRejected := by
  intro b opsel rest
  rw [decode_cons_reservedOp_iff, decode_singleton_reservedOp_iff]

/-- Settles O11: the rejection is read off the request of one byte, for each of its 256 values. -/
theorem neverEmittedFirstBytesAreRejected : Obligations.NeverEmittedFirstBytesAreRejected := by
  intro b first rest
  rw [decode_cons_noCommand_iff, decode_singleton_noCommand_iff]

end Sys2Proof
end

section
/-! The codec and the decoder agree: a command's bytes are read as its row, with the parameter that the codec keeps. -/

namespace Sys2Proof

/-! ### Kept parameters -/

/-- A parameter cut to w bits by arithmetic keeps the bits that the mask keeps (R83). -/
theorem keepBits_ofNat_mod (w : Nat) (p : Byte) : keepBits w (BitVec.ofNat 8 (p.toNat % 2 ^ w)) = keepBits w p := by
  apply BitVec.eq_of_getLsbD_eq
  intro k hk
  simp only [keepBits, BitVec.getLsbD_and, BitVec.getLsbD_ofNat, Nat.testBit_mod_two_pow,
    Nat.testBit_two_pow_sub_one, BitVec.testBit_toNat]
  by_cases hw : k < w <;> simp [hk, hw]

/-- The codec drops what `Command.kept` drops (R83, R126). -/
theorem encodeCommand_kept (c : Command) : encodeCommand c.kept = encodeCommand c := by
  cases c with
  | setStartLine addr => exact congrArg (fun b => [0x40 ||| b]) (keepBits_ofNat_mod 6 addr)
  | setPage addr => exact congrArg (fun b => [0xB0 ||| b]) (keepBits_ofNat_mod 4 addr)
  | setVoltageRegulatorRatio ratio => exact congrArg (fun b => [0x20 ||| b]) (keepBits_ofNat_mod 3 ratio)
  | setElectronicVolume value => exact congrArg (fun b => [0x81, b]) (keepBits_ofNat_mod 6 value)
  | _ => rfl

/-! ### The bytes of a command, decoded -/

/-- The bytes of a command are read as its row (R82, R86, R87): for each command, every value of its parameters. -/
theorem decode_encodeCommand (c : Command) : decode (encodeCommand c) = .ok (.ofCommand c.kept, []) := by
  cases c with
  | setStaticIndicator mode => rcases mode with _ | ⟨⟨⟩⟩ <;> rfl
  | setBoosterRatio ratio => cases ratio <;> rfl
  | _ => decide +revert

theorem readStream_of_decode_ok {n : Nat} {bs left : List Byte} {i : Instr} (h : decode bs = .ok (i, left)) :
    readStream (n + 1) bs = (readStream n left).map (i :: ·) := by
  cases bs with
  | nil => cases h
  | cons b bs => rw [readStream, h]

/-- Settles O7: by induction on the commands; the reader takes the first one's bytes and leaves the others'. -/
theorem commandStreamReadsBack : Obligations.CommandStreamReadsBack := by
  intro cs
  induction cs with
  | nil => rfl
  | cons c cs ih =>
    have hfirst : decode (encodeCommand c ++ cs.flatMap encodeCommand) =
        .ok (.ofCommand c.kept, cs.flatMap encodeCommand) :=
      decode_append_of_ok (decode_encodeCommand c) _
    rw [List.flatMap_cons, List.length_cons, readStream_of_decode_ok hfirst, ih, Option.map_some, List.map_cons]

/-! ### From an instruction back to its command -/

/-- The Command whose row an instruction is (R82); a host operation is the row of none. -/
def Instr.toCommand : Instr → Option Command
  | .displayOnOff on => some (.displayOnOff on)
  | .setStartLine addr => some (.setStartLine addr)
  | .setPage addr => some (.setPage addr)
  | .setColumn addr => some (.setColumn addr)
  | .adcSelect reverse => some (.adcSelect reverse)
  | .setNormalReverse reverse => some (.setNormalReverse reverse)
  | .setAllPointsOn on => some (.setAllPointsOn on)
  | .setLcdBias biasMode1 => some (.setLcdBias biasMode1)
  | .setCommonOutputMode reverse => some (.setCommonOutputMode reverse)
  | .setPowerControl b r f => some (.setPowerControl b r f)
  | .setVoltageRegulatorRatio ratio => some (.setVoltageRegulatorRatio ratio)
  | .setElectronicVolume value => some (.setElectronicVolume value)
  | .setStaticIndicatorNone => some (.setStaticIndicator none)
  | .setStaticIndicatorSome mode => some (.setStaticIndicator (some mode))
  | .setBoosterRatio ratio => some (.setBoosterRatio ratio)
  | _ => none

@[simp] theorem Instr.toCommand_ofCommand (c : Command) : (Instr.ofCommand c).toCommand = some c := by
  cases c with
  | setStaticIndicator mode => cases mode <;> rfl
  | _ => rfl

theorem Instr.ofCommand_injective : Function.Injective Instr.ofCommand := fun c d h => by
  simpa using congrArg Instr.toCommand h

/-- Settles O5: the decoder recovers the kept command from the bytes, and the codec gives the kept command the same
bytes. -/
theorem encodingIsInjectiveOnKeptParameters : Obligations.EncodingIsInjectiveOnKeptParameters := by
  intro c d
  constructor
  · intro h
    have hrows := decode_encodeCommand c
    rw [h, decode_encodeCommand d] at hrows
    simpa [Instr.ofCommand_injective.eq_iff, eq_comm] using hrows
  · intro h
    rw [← encodeCommand_kept c, h, encodeCommand_kept]

/-! ### The row that a first byte names -/

/-- The variant and the length of the command row that a first byte begins, as the decoder has it: 0 is a second byte of
every row that has one (R86, R87). -/
def rowOfFirst (b : Byte) : Option (Byte × Nat) :=
  match decode [b, 0] with
  | .ok (i, left) => i.toCommand.map fun c => (commandTag c, 2 - left.length)
  | .error _ => none

/-- The first byte of a command names its row: for each command, every value of its parameters. -/
theorem rowOfFirst_head_encodeCommand (c : Command) :
    (encodeCommand c).head?.bind rowOfFirst = some (commandTag c, (encodeCommand c).length) := by
  cases c with
  | setStaticIndicator mode => cases mode <;> rfl
  | setBoosterRatio ratio => rfl
  | _ => decide +revert

/-- Settles O6: variant and length are a function of the first byte. -/
theorem firstByteNamesTheRow : Obligations.FirstByteNamesTheRow := by
  intro c d hhead
  have hrow := rowOfFirst_head_encodeCommand c
  rw [hhead, rowOfFirst_head_encodeCommand] at hrow
  obtain ⟨htag, hlength⟩ := Prod.mk.inj (Option.some.inj hrow)
  exact ⟨htag.symm, hlength.symm⟩

end Sys2Proof
end

section
/-! The step on a table word, and the steps that run no instruction. -/

namespace Sys2Proof.Machine

theorem decode_tableBytes_of_decodeTableWord {nbits w : Nat} {i : Instr} (h : decodeTableWord nbits w = some i) :
    ∃ rest, decode (tableBytes nbits w) = .ok (i, rest) := by
  unfold decodeTableWord at h
  split at h
  next j rest hdecode => exact ⟨rest, by rw [hdecode, Option.some.inj h]⟩
  next => cases h

/-- Settles O14: the word's bytes are a request that decodes, and taking it off the port gives the state back. -/
theorem stepRunsTheFetchWord : Obligations.StepRunsTheFetchWord := by
  intro s nbits w i hvalid hword
  obtain ⟨rest, hdecode⟩ := decode_tableBytes_of_decodeTableWord hword
  exact stepRunsTheDecodedRequest (s.withFetchWord nbits w) _ s.inputs i rest hvalid rfl hdecode

section
variable {s : State} {bs : List Byte} {ch : Channel} {later : List Input}

theorem step_of_not_valid (hvalid : ¬ s.cfg.valid) : step s = .refused .invalidConfig := by
  rw [step, State.fetch, if_neg hvalid]

variable (hvalid : s.cfg.valid)
include hvalid

theorem step_of_no_input (hinputs : s.inputs = []) : step s = .next s := by
  simp only [step, State.fetch, if_pos hvalid, hinputs]

theorem step_of_reservedOp {opsel : Byte} (hinputs : s.inputs = .request bs :: later)
    (hdecode : decode bs = .error (.reservedOp opsel)) :
    step s = .next ({ s with inputs := later }.refuse .reservedOp) := by
  simp only [step, State.fetch, if_pos hvalid, hinputs, hdecode]

theorem step_of_noCommand {first : Byte} (hinputs : s.inputs = .request bs :: later)
    (hdecode : decode bs = .error (.noCommand first)) : step s = .fault .malformedRequest := by
  simp only [step, State.fetch, if_pos hvalid, hinputs, hdecode]

theorem step_of_foreign_detached (hinputs : s.inputs = .foreign ch bs :: later) (hatt : s.att = .detached) :
    step s = .next { s with inputs := later }.foreignTraffic := by
  simp only [step, State.fetch, if_pos hvalid, hinputs, if_pos hatt]

theorem step_of_foreign_attached (hinputs : s.inputs = .foreign ch bs :: later) (hatt : s.att = .attached) :
    step s = .refused .busContention := by
  simp [step, State.fetch, if_pos hvalid, hinputs, hatt]

end

/-- Settles O15: one lemma for each kind of input; O10 and O11 say which requests are rejected and how. -/
theorem stepWithoutAnInstruction : Obligations.StepWithoutAnInstruction := by
  intro s bs rest ch later b
  exact ⟨fun hvalid hinputs hreserved =>
      step_of_reservedOp hvalid hinputs ((reservedSelectorsAreRejected b b rest).2 ⟨rfl, hreserved⟩),
    fun hvalid hinputs hnever =>
      step_of_noCommand hvalid hinputs ((neverEmittedFirstBytesAreRejected b b rest).2 ⟨rfl, hnever⟩),
    step_of_no_input, step_of_foreign_detached, step_of_foreign_attached, step_of_not_valid⟩

end Sys2Proof.Machine
end

section
/-! The bytes of each command as numbers, and the command rows as requests to the codec. -/

namespace Sys2Proof

/-! ### A prefix and the field below it

The codec writes fields with masks, shifts and `|||`; the encoding table reads as remainder, quotient and sum. -/

/-- The bits that the mask keeps are the remainder (R83). -/
theorem keepBits_eq_ofNat_mod (w : Nat) (p : Byte) : keepBits w p = BitVec.ofNat 8 (p.toNat % 2 ^ w) := by
  rw [← Nat.and_two_pow_sub_one_eq_mod, BitVec.ofNat_and, BitVec.ofNat_toNat, BitVec.setWidth_eq, keepBits]

theorem ushiftRight_eq_ofNat_div (w : Nat) (p : Byte) : p >>> w = BitVec.ofNat 8 (p.toNat / 2 ^ w) := by
  rw [← Nat.shiftRight_eq_div_pow, ← BitVec.toNat_ushiftRight, BitVec.ofNat_toNat, BitVec.setWidth_eq]

/-- A field of w bits does not meet a prefix that is a multiple of 2^w. -/
theorem ofNat_or_ofNat_of_lt {w n : Nat} (k : Nat) (h : n < 2 ^ w) :
    BitVec.ofNat 8 (2 ^ w * k) ||| BitVec.ofNat 8 n = BitVec.ofNat 8 (2 ^ w * k + n) := by
  rw [← BitVec.ofNat_or, Nat.two_pow_add_eq_or_of_lt h]

theorem ofNat_or_keepBits (w k : Nat) (p : Byte) :
    BitVec.ofNat 8 (2 ^ w * k) ||| keepBits w p = BitVec.ofNat 8 (2 ^ w * k + p.toNat % 2 ^ w) := by
  rw [keepBits_eq_ofNat_mod, ofNat_or_ofNat_of_lt k (Nat.mod_lt _ (Nat.two_pow_pos w))]

theorem or_bitOf (base : Byte) (a : Bool) : base ||| bitOf a = if a then base ||| 1 else base := by
  cases a <;> simp [bitOf]

/-! ### The encoding table -/

/-- Settles O1: five rows have the Boolean as bit 0; the common output row has it as bit 3, and power control has three. -/
theorem booleanCommandBytes : Obligations.BooleanCommandBytes := by
  intro a b c
  have hbit (base : Byte) : [base ||| bitOf a] = [if a then base ||| 1 else base] :=
    congrArg ([·]) (or_bitOf base a)
  have hcommon : encodeCommand (.setCommonOutputMode a) = [if a then 0xC8 else 0xC0] := by cases a <;> rfl
  have hpower : encodeCommand (.setPowerControl a b c) =
      [BitVec.ofNat 8 (0x28 + 4 * a.toNat + 2 * b.toNat + c.toNat)] := by cases a <;> cases b <;> cases c <;> rfl
  exact ⟨hbit 0xAE, hbit 0xA0, hbit 0xA6, hbit 0xA4, hbit 0xA2, hcommon, hpower⟩

/-- Settles O2: each prefix is a multiple of its field, 0x40 = 64 * 1, 0xB0 = 16 * 11, 0x20 = 8 * 4; the electronic
volume's field is a byte of its own. -/
theorem numericCommandBytes : Obligations.NumericCommandBytes := fun p =>
  ⟨congrArg ([·]) (ofNat_or_keepBits 6 1 p), congrArg ([·]) (ofNat_or_keepBits 4 11 p),
    congrArg ([·]) (ofNat_or_keepBits 3 4 p), congrArg ([0x81, ·]) (keepBits_eq_ofNat_mod 6 p)⟩

/-- Settles O3: the upper nibble is the quotient by 16, below the prefix 0x10 = 16 * 1; the lower is the remainder. -/
theorem setColumnBytes : Obligations.SetColumnBytes := by
  intro p
  have hupper : (0x10 : Byte) ||| (p >>> 4) = BitVec.ofNat 8 (0x10 + p.toNat / 16) := by
    rw [ushiftRight_eq_ofNat_div]
    exact ofNat_or_ofNat_of_lt (w := 4) 1 (by omega)
  have hlower : (0x00 : Byte) ||| keepBits 4 p = BitVec.ofNat 8 (p.toNat % 16) := by
    simpa using ofNat_or_keepBits 4 0 p
  exact congrArg₂ ([·, ·]) hupper hlower

/-- Settles O4: eight closed encodings. -/
theorem enumeratedCommandBytes : Obligations.EnumeratedCommandBytes := by
  unfold Obligations.EnumeratedCommandBytes
  decide

end Sys2Proof

namespace Sys2Proof.Machine

/-! ### Requests to the codec -/

/-- The row of a command answers Ok with the command's bytes, in every state (R110). -/
theorem exec_ofCommand (c : Command) (s : State) :
    exec (.ofCommand c) s = .next (s.complete (.bytes (encodeCommand c))) := by
  cases c with
  | setStaticIndicator mode => cases mode <;> rfl
  | _ => rfl

/-- Settles O8: each of the fifteen is the row of its command. -/
theorem codecRequestsReturnTheBytes : Obligations.CodecRequestsReturnTheBytes := by
  intro s a b c p m r
  exact ⟨exec_ofCommand (.displayOnOff a) s, exec_ofCommand (.setStartLine p) s, exec_ofCommand (.setPage p) s,
    exec_ofCommand (.setColumn p) s, exec_ofCommand (.adcSelect a) s, exec_ofCommand (.setNormalReverse a) s,
    exec_ofCommand (.setAllPointsOn a) s, exec_ofCommand (.setLcdBias a) s,
    exec_ofCommand (.setCommonOutputMode a) s, exec_ofCommand (.setPowerControl a b c) s,
    exec_ofCommand (.setVoltageRegulatorRatio p) s, exec_ofCommand (.setElectronicVolume p) s,
    exec_ofCommand (.setStaticIndicator none) s, exec_ofCommand (.setStaticIndicator (some m)) s,
    exec_ofCommand (.setBoosterRatio r) s⟩

end Sys2Proof.Machine
end

section
/-! SET_PIXEL and DRAW as operations of the host: the byte and the range they write, their frame, and what a second one
does; MARK_ALL_DIRTY and GET_SIZE. -/

namespace Sys2Proof.Machine

/-! ### SET_PIXEL, case by case (R140) -/

theorem State.setPixel_of_outside {s : State} {x y : Int} (color : Color) (h : ¬ inBounds s.cfg x y = true) :
    s.setPixel x y color = s := if_neg h

/-- A redundant SET_PIXEL: the byte is the painted one already. -/
theorem State.setPixel_of_painted {s : State} {x y : Int} {color : Color}
    (h : paint (rowBit y) color (s.fbRead (pageOf y) (columnOf x)) = s.fbRead (pageOf y) (columnOf x)) :
    s.setPixel x y color = s := by
  obtain heq | ⟨-, hne, -⟩ := s.setPixel_cases x y color
  · exact heq
  · exact absurd h hne

theorem State.setPixel_of_changed {s : State} {x y : Int} {color : Color} (hin : inBounds s.cfg x y = true)
    (h : paint (rowBit y) color (s.fbRead (pageOf y) (columnOf x)) ≠ s.fbRead (pageOf y) (columnOf x)) :
    s.setPixel x y color =
      (s.fbWrite (pageOf y) (columnOf x) (paint (rowBit y) color (s.fbRead (pageOf y) (columnOf x)))).setRange
        (pageOf y) ((s.range (pageOf y)).include (columnOf x)) := by
  rw [State.setPixel, if_pos hin]
  exact if_neg h

theorem exec_setPixel_of_not_gfx {s : State} (x y : Int) (color : Color) (hm : s.mode ≠ .gfx) :
    exec (.setPixel x y color) s = .next (s.refuse .wrongMode) :=
  congrArg _ (State.inMode_of_ne _ hm)

/-- Settles O18: the new byte is the painted one, and the range that it widens takes the union with its column. -/
theorem setPixelPaintsOneBit : Obligations.SetPixelPaintsOneBit := by
  intro s x y color
  refine ⟨rfl, fun hm hout => ?_, ?_, fun hm => exec_setPixel_of_not_gfx x y color hm⟩
  · rw [exec_setPixel_of_gfx x y color hm, State.setPixel_of_outside color (mt (inBounds_iff ..).1 hout)]
    rfl
  · rintro cx cy rfl rfl hm hx hy
    have hin : inBounds s.cfg cx cy = true := by simp [inBounds_iff, hx, hy]
    refine ⟨paint (cy % 8) color (s.fbRead (cy / 8) cx), fun b hb => paint_getLsbD hb .., ?_⟩
    rw [exec_setPixel_of_gfx _ _ color hm]
    split
    · rw [State.setPixel_of_painted ‹_›]
      rfl
    · rw [State.setPixel_of_changed hin ‹_›]
      rfl

/-! ### The frame of SET_PIXEL -/

@[simp] theorem State.setPixel_cfg (x y : Int) (color : Color) (s : State) : (s.setPixel x y color).cfg = s.cfg := by
  rw [State.setPixel_frame]

@[simp] theorem State.setPixel_mode (x y : Int) (color : Color) (s : State) : (s.setPixel x y color).mode = s.mode := by
  rw [State.setPixel_frame]

@[simp] theorem State.setPixel_att (x y : Int) (color : Color) (s : State) : (s.setPixel x y color).att = s.att := by
  rw [State.setPixel_frame]

@[simp] theorem State.setPixel_trace (x y : Int) (color : Color) (s : State) :
    (s.setPixel x y color).trace = s.trace := by
  rw [State.setPixel_frame]

theorem State.read_setPixel_of_ne {s : State} {x y : Int} {a : Nat} (color : Color)
    (h : a ≠ cellAddr s.cfg (pageOf y) (columnOf x)) :
    Memory.read a (s.setPixel x y color).fb = Memory.read a s.fb := by
  obtain heq | ⟨-, -, heq⟩ := s.setPixel_cases x y color <;> rw [heq]
  exact Memory.read_write_ne h ..

theorem State.range_setPixel_of_ne {s : State} {x y : Int} {p : Nat} (color : Color) (h : p ≠ pageOf y) :
    (s.setPixel x y color).range p = s.range p := by
  obtain heq | ⟨-, -, heq⟩ := s.setPixel_cases x y color <;> rw [heq]
  exact (State.range_setRange ..).trans (if_neg fun hsame => h hsame.1)

/-- Settles O19: refused, it writes only the result; otherwise the frame is that of `State.setPixel`. -/
theorem setPixelFrame : Obligations.SetPixelFrame := by
  intro s t x y color h
  obtain rfl : setPixelOp x y color s = t := Host.Outcome.next.inj h
  refine State.inMode_intro (P := fun t => (∀ a, a ≠ _ → Memory.read a t.fb = Memory.read a s.fb) ∧
    (∀ p, p ≠ _ → t.range p = s.range p) ∧ t = { s with fb := t.fb, dr := t.dr, result := t.result }) ?_ ?_
  · exact fun _ => ⟨fun _ _ => rfl, fun _ _ => rfl, rfl⟩
  · refine fun _ => ⟨fun _ => State.read_setPixel_of_ne color, fun _ => State.range_setPixel_of_ne color, ?_⟩
    rw [State.setPixel_frame]
    rfl

/-! ### A second SET_PIXEL (R141 (c)) -/

theorem paint_paint (b : Nat) (color : Color) (old : Byte) : paint b color (paint b color old) = paint b color old := by
  cases color with
  | on => exact (BitVec.or_assoc ..).trans (congrArg _ BitVec.or_self)
  | off => exact (BitVec.and_assoc ..).trans (congrArg _ BitVec.and_self)

theorem State.setPixel_setPixel {s : State} (x y : Int) (color : Color) (hs : Memory.sorted s.fb = true) :
    (s.setPixel x y color).setPixel x y color = s.setPixel x y color := by
  by_cases hin : inBounds s.cfg x y = true
  · refine State.setPixel_of_painted ?_
    rw [State.fbRead_setPixel _ color hs hin (columnOf_lt hin), if_pos ⟨rfl, rfl⟩, paint_paint]
  · exact State.setPixel_of_outside color (by rwa [State.setPixel_cfg])

/-- SET_PIXEL does not look at the result. -/
theorem State.setPixel_complete (x y : Int) (color : Color) (v : Value) (s : State) :
    (s.complete v).setPixel x y color = (s.setPixel x y color).complete v := by
  by_cases hin : inBounds s.cfg x y = true
  · by_cases hsame : paint (rowBit y) color (s.fbRead (pageOf y) (columnOf x)) = s.fbRead (pageOf y) (columnOf x)
    · rw [State.setPixel_of_painted hsame]
      exact State.setPixel_of_painted hsame
    · rw [State.setPixel_of_changed hin hsame]
      exact State.setPixel_of_changed hin hsame
  · rw [State.setPixel_of_outside color hin]
    exact State.setPixel_of_outside color hin

/-- Settles O21: the byte is the painted one already; a refused one is refused again. -/
theorem setPixelIsIdempotent : Obligations.SetPixelIsIdempotent := by
  intro s t x y color hwf h
  have hs : Memory.sorted s.fb = true := (Bool.and_eq_true_iff.1 hwf).1
  by_cases hm : s.mode = .gfx
  · rw [exec_setPixel_of_gfx x y color hm] at h
    obtain rfl := Host.Outcome.next.inj h
    rw [exec_setPixel_of_gfx x y color (by simpa using hm), State.setPixel_complete,
      State.setPixel_setPixel x y color hs]
    rfl
  · rw [exec_setPixel_of_not_gfx x y color hm] at h
    obtain rfl := Host.Outcome.next.inj h
    exact exec_setPixel_of_not_gfx x y color hm

/-! ### DRAW (R142) -/

/-- A pixel of the resolution after SET_PIXEL, whether or not the named pixel lies in the bounds. -/
theorem State.pixel_setPixel_int {s : State} {x' y' : Nat} (x y : Int) (color : Color)
    (hs : Memory.sorted s.fb = true) (hx' : x' < s.cfg.width) (hy' : y' < s.cfg.height) :
    (s.setPixel x y color).pixel x' y' = if x = x' ∧ y = y' then decide (color = .on) else s.pixel x' y' := by
  by_cases hin : inBounds s.cfg x y = true
  · obtain ⟨hx, hxw, hy, hyh⟩ := (inBounds_iff ..).1 hin
    lift x to Nat using hx
    lift y to Nat using hy
    rw [State.pixel_setPixel color hs (by omega) (by omega) hx']
    simp only [Nat.cast_inj, eq_comm]
  · rw [State.setPixel_of_outside color hin, if_neg]
    rintro ⟨rfl, rfl⟩
    exact hin (by simp [inBounds_iff, hx', hy'])

/-- What DRAW has done after some of its events: each is a SET_PIXEL in graphics mode, so that none is refused. -/
structure State.Drawn (events : List PixelEvent) (s t : State) : Prop where
  mode : t.mode = .gfx
  cfg : t.cfg = s.cfg
  trace : t.trace = s.trace
  wf : Memory.wf t.fb = true
  pixel : ∀ x y : Nat, x < s.cfg.width → y < s.cfg.height → t.pixel x y =
    match events.reverse.find? (fun e => decide (e.x = (x : Int) ∧ e.y = (y : Int))) with
    | some e => decide (e.color = .on)
    | none => s.pixel x y

theorem State.setPixel_wf {s : State} (h : Memory.wf s.fb = true) (x y : Int) (color : Color) :
    Memory.wf (s.setPixel x y color).fb = true := by
  obtain heq | ⟨-, -, heq⟩ := s.setPixel_cases x y color <;> rw [heq]
  · exact h
  · exact State.fbWrite_wf _ _ _ h

theorem State.Drawn.setPixel {events : List PixelEvent} {s t : State} (h : s.Drawn events t) (e : PixelEvent) :
    s.Drawn (events ++ [e]) (setPixelOp e.x e.y e.color t) := by
  rw [setPixelOp, State.inMode_of_eq _ h.mode]
  have hs : Memory.sorted t.fb = true := (Bool.and_eq_true_iff.1 h.wf).1
  refine ⟨by simpa using h.mode, by simpa using h.cfg, by simpa using h.trace, State.setPixel_wf h.wf ..,
    fun x y hx hy => ?_⟩
  refine (State.pixel_setPixel_int e.x e.y e.color hs (h.cfg ▸ hx) (h.cfg ▸ hy)).trans ?_
  rw [List.reverse_append, List.reverse_singleton, List.singleton_append, List.find?_cons]
  by_cases hname : e.x = x ∧ e.y = y
  · simp [hname]
  · simp [hname, h.pixel x y hx hy]

theorem State.drawn_foldl {s : State} (hm : s.mode = .gfx) (hwf : Memory.wf s.fb = true)
    (events : List PixelEvent) : s.Drawn events (events.foldl (fun s e => setPixelOp e.x e.y e.color s) s) := by
  induction events using List.reverseRecOn with
  | nil => exact ⟨hm, rfl, rfl, hwf, fun _ _ _ _ => rfl⟩
  | append_singleton events e ih =>
    rw [List.foldl_append]
    exact ih.setPixel e

/-- Settles O22: by induction on the events, the last one first. -/
theorem drawPaintsTheLastColour : Obligations.DrawPaintsTheLastColour := by
  intro s events x y hm hwf hx hy
  have hdrawn := State.drawn_foldl hm hwf events
  rw [drawOp, State.inMode_of_eq _ hm]
  exact ⟨hdrawn.pixel x y hx hy, hdrawn.trace, rfl⟩

/-! ### MARK_ALL_DIRTY and GET_SIZE -/

/-- Settles O33: past the guard of R144, and refused by it. -/
theorem markAllDirtySetsEveryRange : Obligations.MarkAllDirtySetsEveryRange := fun _ =>
  ⟨fun hm => congrArg _ (State.inMode_of_eq _ hm), fun hm => congrArg _ (State.inMode_of_ne _ hm)⟩

/-- Settles O34: past the guard of R145, and refused by it. -/
theorem getSizeReturnsTheResolution : Obligations.GetSizeReturnsTheResolution := fun _ =>
  ⟨fun hm => congrArg _ (State.inMode_of_eq _ hm), fun hm => congrArg _ (State.inMode_of_ne _ hm)⟩

end Sys2Proof.Machine
end

section
/-! The plan of a FLUSH (R143): a FLUSH is the planned transactions in order, up to the first one that fails, and a page
becomes clean with the last of its own. -/

namespace Sys2Proof.Machine

/-! ### Transactions that were made -/

/-- From s to t the events es were added to the trace and one answer was used for each; besides, only the ranges, SENT and
the sink may differ. -/
structure State.Made (es : List TxEvent) (s t : State) : Prop where
  block : s.SameBlock t
  trace : t.trace = s.trace ++ es
  answers : t.answers = s.answers.drop es.length
  txCount : t.txCount = s.txCount + es.length

theorem State.Made.refl (s : State) : s.Made [] s := ⟨.refl s, by simp, rfl, rfl⟩

theorem State.Made.trans {es fs : List TxEvent} {s t u : State} (h : s.Made es t) (k : t.Made fs u) :
    s.Made (es ++ fs) u where
  block := h.block.trans k.block
  trace := by rw [k.trace, h.trace, List.append_assoc]
  answers := by rw [k.answers, h.answers, List.drop_drop, List.length_append]
  txCount := by rw [k.txCount, h.txCount, List.length_append, Nat.add_assoc]

/-- A transaction has the outcome of the next answer, and its event names it. -/
theorem State.transact_made {s : State} {o : TxOutcome} (ch : Channel) (bs : List Byte)
    (h : outcomeOf (s.answerAt 0) = o) : ∃ u, s.transact ch bs = (u, o) ∧ s.Made [⟨ch, bs, o⟩] u := by
  subst h
  exact ⟨_, rfl, ⟨rfl, rfl, rfl, rfl, rfl, rfl, rfl, rfl, rfl, rfl⟩, rfl, List.drop_one.symm, rfl⟩

/-- The next answers are those after the ones used. -/
theorem State.Made.answerAt {es : List TxEvent} {s t : State} (h : s.Made es t) (k : Nat) :
    t.answerAt k = s.answerAt (es.length + k) := by
  simp only [State.answerAt, h.answers, h.txCount, List.getElem?_drop, Nat.add_assoc]

theorem State.Made.answersOk {es : List TxEvent} {s t : State} {n : Nat} (h : s.Made es t)
    (hok : s.answersOk (es.length + n)) : t.answersOk n :=
  fun k hk => (h.answerAt k).trans (hok _ (by omega))

/-- The frame, as the statements about FLUSH write it. -/
theorem State.Made.eq {es : List TxEvent} {s t : State} (h : s.Made es t) :
    t = { s with dr := t.dr, trace := t.trace, sent := t.sent, sink := t.sink,
                 answers := s.answers.drop es.length, txCount := s.txCount + es.length } := by
  obtain ⟨⟨hcfg, hfb, hmode, hatt, hhandle, hresult, hinputs, hpins, hpinCount, -⟩, -, hanswers, htx⟩ := h
  cases t
  simp only at *
  subst_vars
  rfl

theorem State.answersOk.of_le {s : State} {m n : Nat} (h : s.answersOk n) (hle : m ≤ n) : s.answersOk m :=
  fun k hk => h k (Nat.lt_of_lt_of_le hk hle)

/-- Of the next answers all are Ok, or there is a first error. -/
theorem State.answers_cases (n : Nat) (s : State) :
    s.answersOk n ∨ ∃ j e m, j < n ∧ s.answersOk j ∧ s.answerAt j = .err e m := by
  induction n with
  | zero => exact .inl fun k hk => absurd hk (Nat.not_lt_zero k)
  | succ n ih =>
    obtain hok | ⟨j, e, m, hj, hfail⟩ := ih
    · cases ha : s.answerAt n with
      | ok => exact .inl fun k hk => (Nat.lt_succ_iff_lt_or_eq.1 hk).elim (hok k) fun hkn => hkn ▸ ha
      | err e m => exact .inr ⟨n, e, m, Nat.lt_succ_self n, hok, ha⟩
    · exact .inr ⟨j, e, m, Nat.lt_succ_of_lt hj, hfail⟩

/-! ### Planned transactions, one after the other -/

/-- The transactions of a plan in order, up to the first error; nothing else is done. -/
def State.sendPlan : List PlannedTx → State → State × TxOutcome
  | [], s => (s, .ok)
  | tx :: plan, s => andThen (State.sendPlan plan) (s.transact tx.channel tx.bytes)

theorem State.sendPlan_quiet (plan : List PlannedTx) (s : State) : s.Quiet (State.sendPlan plan s).1 := by
  induction plan generalizing s with
  | nil => exact .refl s
  | cons _ plan ih => exact andThen_rel (fun _ _ _ => .trans) (s.transact_quiet ..) fun _ => ih _

theorem State.sendPlan_of_ok {plan : List PlannedTx} {s : State} (h : s.answersOk plan.length) :
    ∃ u, State.sendPlan plan s = (u, .ok) ∧ s.Made (plan.map (PlannedTx.event .ok)) u := by
  induction plan generalizing s with
  | nil => exact ⟨s, rfl, .refl s⟩
  | cons tx plan ih =>
    obtain ⟨t, hfirst, hmade⟩ := State.transact_made (o := .ok) tx.channel tx.bytes
      (congrArg outcomeOf (h 0 (Nat.succ_pos _)))
    obtain ⟨u, hsend, hrest⟩ := ih (hmade.answersOk (by rwa [List.length_singleton, Nat.add_comm]))
    exact ⟨u, by rw [State.sendPlan, hfirst, andThen_ok, hsend], hmade.trans hrest⟩

theorem State.sendPlan_of_err {plan : List PlannedTx} {s : State} {j n : Nat} {tx : PlannedTx} {e : TransportError}
    (hj : plan[j]? = some tx) (hok : s.answersOk j) (herr : s.answerAt j = .err e n) :
    ∃ u, State.sendPlan plan s = (u, .err e) ∧
      s.Made ((plan.take j).map (PlannedTx.event .ok) ++ [tx.event (.err e)]) u := by
  induction plan generalizing s j with
  | nil => cases hj
  | cons first plan ih =>
    cases j with
    | zero =>
      obtain rfl := Option.some.inj hj
      obtain ⟨u, hfirst, hmade⟩ := State.transact_made (o := .err e) first.channel first.bytes (congrArg outcomeOf herr)
      exact ⟨u, by rw [State.sendPlan, hfirst, andThen_err], hmade⟩
    | succ j =>
      obtain ⟨t, hfirst, hmade⟩ :=
        State.transact_made (o := .ok) first.channel first.bytes (congrArg outcomeOf (hok 0 (Nat.succ_pos _)))
      have hfail : t.answerAt j = .err e n := by rw [hmade.answerAt, List.length_singleton, Nat.add_comm, herr]
      obtain ⟨u, hsend, hrest⟩ := ih hj (hmade.answersOk (by rwa [List.length_singleton, Nat.add_comm])) hfail
      exact ⟨u, by rw [State.sendPlan, hfirst, andThen_ok, hsend], hmade.trans hrest⟩

/-! ### The plan of a page -/

theorem State.pagePlan_of_none {s : State} {p : Nat} (h : (s.range p).burst s.cfg.width = none) :
    s.pagePlan p = [] := by
  simp only [State.pagePlan, h]

/-- The address that FLUSH sends is the planned one (R57, R143). -/
theorem State.pagePlan_of_burst {s : State} {p start stop : Nat}
    (h : (s.range p).burst s.cfg.width = some (start, stop)) :
    s.pagePlan p =
      [⟨p, .command, encodeCommand (.setPage (pageAddr p))⟩,
       ⟨p, .command, encodeCommand (.setColumn (columnAddr s.cfg start))⟩,
       ⟨p, .data, s.fbRun p start (stop - start)⟩] := by
  have hcolumn : BitVec.ofNat 8 ((s.cfg.columnOffset + start) % 256) = columnAddr s.cfg start :=
    BitVec.eq_of_toNat_eq (by simp [columnAddr])
  simp only [State.pagePlan, h, hcolumn]
  rfl

theorem State.pagePlan_of_clean {s : State} {p : Nat} (h : s.range p = .clean) : s.pagePlan p = [] :=
  State.pagePlan_of_none (by rw [h]; rfl)

theorem State.page_of_mem_pagePlan {s : State} {p : Nat} {tx : PlannedTx} (h : tx ∈ s.pagePlan p) : tx.page = p := by
  cases hburst : (s.range p).burst s.cfg.width with
  | none => simp [State.pagePlan_of_none hburst] at h
  | some range =>
    rw [State.pagePlan_of_burst hburst] at h
    simp only [List.mem_cons, List.not_mem_nil, or_false] at h
    obtain rfl | rfl | rfl := h <;> rfl

/-- A page's plan begins with its SetPage. -/
theorem State.pagePlan_head {s : State} {p : Nat} (h : s.pagePlan p ≠ []) :
    ∃ rest, s.pagePlan p = ⟨p, .command, encodeCommand (.setPage (BitVec.ofNat 8 p))⟩ :: rest := by
  cases hburst : (s.range p).burst s.cfg.width with
  | none => exact absurd (State.pagePlan_of_none hburst) h
  | some range => exact ⟨_, State.pagePlan_of_burst hburst⟩

/-- The plan of a page reads the configuration, the framebuffer and the page's range. -/
theorem State.pagePlan_congr {s t : State} {p : Nat} (hcfg : t.cfg = s.cfg) (hfb : t.fb = s.fb)
    (hrange : t.range p = s.range p) : t.pagePlan p = s.pagePlan p := by
  simp only [State.pagePlan, State.fbRead, hcfg, hfb, hrange]

/-- A page beyond the ranges has nothing pending. -/
theorem State.lt_length_of_pagePlan {s : State} {p : Nat} (h : s.pagePlan p ≠ []) : p < s.dr.length := by
  by_contra hp
  exact h (State.pagePlan_of_clean (List.getD_eq_default _ _ (Nat.le_of_not_lt hp)))

/-! ### FLUSH of a page is its plan -/

theorem State.flushPage_of_none {s : State} {p : Nat} (h : (s.range p).burst s.cfg.width = none) :
    s.flushPage p = (s, .ok) := by
  simp only [State.flushPage, h]

/-- The planned transactions, and then, if all are answered Ok, the note of SENT and the clean range (R30, R143). -/
theorem State.flushPage_eq_sendPlan {s : State} {p start stop : Nat}
    (h : (s.range p).burst s.cfg.width = some (start, stop)) :
    s.flushPage p =
      andThen (fun t => ((t.noteSent p start (s.fbRun p start (stop - start))).setRange p .clean, .ok))
        (State.sendPlan (s.pagePlan p) s) := by
  have hquiet := s.sendAddress_quiet p start
  have hplan : State.sendPlan (s.pagePlan p) s =
      andThen (State.sendPlan [⟨p, .data, s.fbRun p start (stop - start)⟩]) (s.sendAddress p start) := by
    rw [State.pagePlan_of_burst h]
    simp only [State.sendPlan, State.sendAddress, State.sendCommand]
    obtain ⟨u, _ | e⟩ := s.transact .command (encodeCommand (.setPage (pageAddr p))) <;> rfl
  rw [State.flushPage_of_burst h, hplan]
  generalize s.sendAddress p start = r at hquiet ⊢
  obtain ⟨u, _ | e⟩ := r
  · simp only [andThen_ok, State.sendBurst, State.sendPlan, hquiet.fbRun]
    obtain ⟨v, _ | e⟩ := u.transact .data (s.fbRun p start (stop - start)) <;> rfl
  · rfl

/-! ### FLUSH of some pages -/

/-- The events es were added, and of the pages from fp up to m those that had something pending are clean; every other
range is as it was. -/
structure State.PagesSent (fp m : Nat) (es : List TxEvent) (s t : State) : Prop where
  made : s.Made es t
  range : ∀ p, t.range p = if fp ≤ p ∧ p < m ∧ s.pagePlan p ≠ [] then .clean else s.range p

theorem State.PagesSent.pagePlan {fp m p : Nat} {es : List TxEvent} {s t : State} (h : s.PagesSent fp m es t)
    (hp : p < fp ∨ m ≤ p) : t.pagePlan p = s.pagePlan p :=
  State.pagePlan_congr h.made.block.cfg h.made.block.fb ((h.range p).trans (if_neg (by omega)))

theorem State.PagesSent.trans {fp m q : Nat} {es fs : List TxEvent} {s t u : State} (h : s.PagesSent fp m es t)
    (k : t.PagesSent m q fs u) (hfp : fp ≤ m) (hq : m ≤ q) : s.PagesSent fp q (es ++ fs) u := by
  refine ⟨h.made.trans k.made, fun p => ?_⟩
  rw [k.range, h.range]
  by_cases hp : m ≤ p
  · have hplan := h.pagePlan (.inr hp)
    simp only [hplan, hp, Nat.not_lt.2 hp, hfp.trans hp, true_and, false_and, and_false, if_false]
  · simp only [hp, false_and, if_false, Nat.lt_of_not_le hp, (Nat.lt_of_not_le hp).trans_le hq, true_and]

/-- No page was sent whole. -/
theorem State.Made.pagesSent {fp : Nat} {es : List TxEvent} {s t : State} (h : s.Made es t) (hdr : t.dr = s.dr) :
    s.PagesSent fp fp es t :=
  ⟨h, fun p => by rw [if_neg (by omega), State.range, hdr, State.range]⟩

theorem State.flushPage_of_ok {s : State} {p : Nat} (hok : s.answersOk (s.pagePlan p).length) :
    ∃ u, s.flushPage p = (u, .ok) ∧ s.PagesSent p (p + 1) ((s.pagePlan p).map (PlannedTx.event .ok)) u := by
  cases hburst : (s.range p).burst s.cfg.width with
  | none =>
    have hplan := State.pagePlan_of_none hburst
    refine ⟨s, State.flushPage_of_none hburst, by rw [hplan]; exact .refl s, fun q => ?_⟩
    rw [if_neg]
    rintro ⟨hle, hlt, hne⟩
    obtain rfl : q = p := by omega
    exact hne hplan
  | some range =>
    obtain ⟨start, stop⟩ := range
    have hplan : s.pagePlan p ≠ [] := by rw [State.pagePlan_of_burst hburst]; simp
    have hquiet := s.sendPlan_quiet (s.pagePlan p)
    obtain ⟨u, hsend, hmade⟩ := State.sendPlan_of_ok hok
    rw [hsend] at hquiet
    have hcleaned : u.Made [] ((u.noteSent p start (s.fbRun p start (stop - start))).setRange p .clean) :=
      ⟨⟨rfl, rfl, rfl, rfl, rfl, rfl, rfl, rfl, rfl, by simp⟩, by simp, rfl, rfl⟩
    refine ⟨_, by rw [State.flushPage_eq_sendPlan hburst, hsend, andThen_ok], ?_, fun q => ?_⟩
    · simpa using hmade.trans hcleaned
    · rw [State.range_setRange, State.noteSent_dr, State.range_noteSent, hquiet.dr, hquiet.range]
      refine if_congr ⟨?_, ?_⟩ rfl rfl
      · rintro ⟨rfl, -⟩
        exact ⟨le_refl _, Nat.lt_succ_self _, hplan⟩
      · rintro ⟨hle, hlt, -⟩
        exact ⟨by omega, State.lt_length_of_pagePlan hplan⟩

theorem State.flushPage_of_err {s : State} {p j n : Nat} {tx : PlannedTx} {e : TransportError}
    (hj : (s.pagePlan p)[j]? = some tx) (hok : s.answersOk j) (herr : s.answerAt j = .err e n) :
    ∃ u, s.flushPage p = (u, .err e) ∧
      s.PagesSent p p (((s.pagePlan p).take j).map (PlannedTx.event .ok) ++ [tx.event (.err e)]) u := by
  cases hburst : (s.range p).burst s.cfg.width with
  | none =>
    rw [State.pagePlan_of_none hburst] at hj
    cases hj
  | some range =>
    have hquiet := s.sendPlan_quiet (s.pagePlan p)
    obtain ⟨u, hsend, hmade⟩ := State.sendPlan_of_err hj hok herr
    rw [hsend] at hquiet
    exact ⟨u, by rw [State.flushPage_eq_sendPlan hburst, hsend, andThen_err], hmade.pagesSent hquiet.dr⟩

/-! ### The loop of FLUSH -/

/-- The plan of n pages from fp on. -/
def State.planFrom (n fp : Nat) (s : State) : List PlannedTx := (List.range' fp n).flatMap s.pagePlan

theorem State.flushPlan_eq_planFrom (s : State) : s.flushPlan = s.planFrom s.cfg.pages 0 := by
  rw [State.flushPlan, List.range_eq_range', State.planFrom]

theorem State.planFrom_succ (n fp : Nat) (s : State) :
    s.planFrom (n + 1) fp = s.pagePlan fp ++ s.planFrom n (fp + 1) := by
  rw [State.planFrom, List.range'_succ, List.flatMap_cons, State.planFrom]

theorem State.mem_planFrom {n fp : Nat} {s : State} {tx : PlannedTx} (h : tx ∈ s.planFrom n fp) :
    fp ≤ tx.page ∧ tx.page < fp + n ∧ tx ∈ s.pagePlan tx.page := by
  obtain ⟨p, hp, hmem⟩ := List.mem_flatMap.1 h
  obtain ⟨hle, hlt⟩ := List.mem_range'_1.1 hp
  obtain rfl := State.page_of_mem_pagePlan hmem
  exact ⟨hle, hlt, hmem⟩

/-- The pages that are still to come keep their plan. -/
theorem State.PagesSent.planFrom {fp m n : Nat} {es : List TxEvent} {s t : State} (h : s.PagesSent fp m es t) :
    t.planFrom n m = s.planFrom n m :=
  List.flatMap_congr fun _ hp => h.pagePlan (.inr (List.mem_range'_1.1 hp).1)

/-- The plan's transactions are all answered Ok: the loop makes them all. -/
theorem State.flushFrom_of_ok {n fp : Nat} {s : State} (hok : s.answersOk (s.planFrom n fp).length) :
    ∃ u, State.flushFrom n fp s = (u, .ok) ∧
      s.PagesSent fp (fp + n) ((s.planFrom n fp).map (PlannedTx.event .ok)) u := by
  induction n generalizing fp s with
  | zero => exact ⟨s, rfl, (State.Made.refl s).pagesSent rfl⟩
  | succ n ih =>
    rw [State.planFrom_succ, List.length_append] at hok
    obtain ⟨t, hpage, hsent⟩ := State.flushPage_of_ok (hok.of_le (Nat.le_add_right ..))
    have hlater : t.answersOk (t.planFrom n (fp + 1)).length :=
      hsent.made.answersOk (by simpa only [List.length_map, hsent.planFrom] using hok)
    obtain ⟨u, hloop, hrest⟩ := ih hlater
    refine ⟨u, by rw [State.flushFrom, hpage, andThen_ok, hloop], ?_⟩
    rw [State.planFrom_succ, List.map_append, ← hsent.planFrom, show fp + (n + 1) = fp + 1 + n by omega]
    exact hsent.trans hrest (by omega) (by omega)

/-- The plan's transaction j is the first to fail: the loop ends with it, in the middle of its page. -/
theorem State.flushFrom_of_err {n fp j m : Nat} {s : State} {tx : PlannedTx} {e : TransportError}
    (hj : (s.planFrom n fp)[j]? = some tx) (hok : s.answersOk j) (herr : s.answerAt j = .err e m) :
    ∃ u, State.flushFrom n fp s = (u, .err e) ∧
      s.PagesSent fp tx.page (((s.planFrom n fp).take j).map (PlannedTx.event .ok) ++ [tx.event (.err e)]) u := by
  induction n generalizing fp s j with
  | zero => cases hj
  | succ n ih =>
    rw [State.planFrom_succ] at hj ⊢
    rw [State.flushFrom]
    by_cases hin : j < (s.pagePlan fp).length
    · rw [List.getElem?_append_left hin] at hj
      obtain ⟨u, hpage, hsent⟩ := State.flushPage_of_err hj hok herr
      rw [State.page_of_mem_pagePlan (List.mem_of_getElem? hj), List.take_append_of_le_length (le_of_lt hin)]
      exact ⟨u, by rw [hpage, andThen_err], hsent⟩
    · have hle : (s.pagePlan fp).length ≤ j := Nat.le_of_not_lt hin
      rw [List.getElem?_append_right hle] at hj
      obtain ⟨k, rfl⟩ := Nat.exists_eq_add_of_le hle
      rw [Nat.add_sub_cancel_left] at hj
      obtain ⟨t, hpage, hsent⟩ := State.flushPage_of_ok (hok.of_le hle)
      have hmade := hsent.made
      have hfail : t.answerAt k = .err e m := by rw [hmade.answerAt, List.length_map, herr]
      rw [← hsent.planFrom] at hj ⊢
      obtain ⟨u, hloop, hrest⟩ := ih hj (hmade.answersOk (by rwa [List.length_map])) hfail
      obtain ⟨hfp, -⟩ := State.mem_planFrom (List.mem_of_getElem? hj)
      refine ⟨u, by rw [hpage, andThen_ok, hloop], ?_⟩
      rw [List.take_length_add_append, List.map_append, List.append_assoc]
      exact hsent.trans hrest (by omega) hfp

/-! ### FLUSH answered by the transport -/

theorem exec_flush_of_attached {s : State} (hm : s.mode = .gfx) (ha : s.att = .attached) :
    exec .flush s = .next (finish (State.flushFrom s.cfg.pages 0 s)) :=
  congrArg _ ((State.inMode_of_eq _ hm).trans (State.whenAttached_of_attached _ ha))

/-- Settles O23: the loop makes its whole plan. -/
theorem flushMakesThePlannedTransactions : Obligations.FlushMakesThePlannedTransactions := by
  intro s hm ha hok
  rw [State.flushPlan_eq_planFrom] at hok ⊢
  obtain ⟨u, hloop, hmade, hrange⟩ := State.flushFrom_of_ok hok
  have hframe := congrArg (State.complete .none) hmade.eq
  rw [List.length_map] at hframe
  exact ⟨u.complete .none, by rw [exec_flush_of_attached hm ha, hloop, finish_ok], rfl, hmade.trace,
    hmade.block.pages, fun p => (hrange p).trans (by simp), hframe⟩

/-- Settles O24: the loop ends with the plan's first transaction that fails. -/
theorem flushStopsAtTheFirstError : Obligations.FlushStopsAtTheFirstError := by
  intro s j tx e n hm ha hj hok herr
  have hlt : j < s.flushPlan.length := (List.getElem?_eq_some_iff.1 hj).1
  rw [State.flushPlan_eq_planFrom] at hj hlt ⊢
  obtain ⟨u, hloop, hmade, hrange⟩ := State.flushFrom_of_err hj hok herr
  have hframe := congrArg (State.raise (.communicationError e)) hmade.eq
  rw [List.length_append, List.length_map, List.length_take, Nat.min_eq_left (le_of_lt hlt),
    List.length_singleton] at hframe
  exact ⟨u.raise (.communicationError e), by rw [exec_flush_of_attached hm ha, hloop, finish_err], rfl,
    by simpa using hmade.trace, fun p hp => (hrange p).trans (by simp [hp]),
    fun p hp => (hrange p).trans (if_neg (by omega)), hframe⟩

end Sys2Proof.Machine
end

section
/-! FLUSH after FLUSH, and FLUSH after one pixel (R146): what the plan of the second state is. -/

namespace Sys2Proof.Machine

/-! ### A FLUSH with nothing pending -/

theorem State.flushFrom_of_clean {n fp : Nat} {s : State} (h : ∀ q, fp ≤ q → q < fp + n → s.range q = .clean) :
    State.flushFrom n fp s = (s, .ok) := by
  induction n generalizing fp with
  | zero => rfl
  | succ n ih =>
    have hclean : s.range fp = .clean := h fp (le_refl _) (by omega)
    rw [State.flushFrom, State.flushPage_of_none (by rw [hclean]; rfl), andThen_ok]
    exact ih fun q hle hlt => h q (by omega) (by omega)

/-- Settles O28: every page is clean, and the result is Ok already. -/
theorem secondFlushEmitsNothing : Obligations.SecondFlushEmitsNothing := by
  intro s t hwf hm ha hexec hok
  obtain ⟨u, hloop, rfl⟩ := exec_flush_ok hm ha hexec hok
  have hframe : s.SameBlock u := by simpa only [hloop] using State.flushFrom_sameBlock s.cfg.pages 0 s
  have hclean : ∀ q, 0 ≤ q → q < 0 + u.cfg.pages → u.range q = .clean := fun q hle hlt =>
    State.clean_of_flushFrom_ok hwf hloop hle (hframe.cfg ▸ hlt)
  have hagain : State.flushFrom u.cfg.pages 0 (u.complete .none) = (u.complete .none, .ok) :=
    State.flushFrom_of_clean hclean
  rw [exec_flush_of_attached (s := u.complete .none) (hframe.mode.trans hm) (hframe.att.trans ha), State.complete_cfg,
    hagain]
  rfl

/-! ### The first page with something pending -/

theorem State.planFrom_eq_nil {n fp : Nat} {s : State} (h : ∀ p, fp ≤ p → p < fp + n → s.pagePlan p = []) :
    s.planFrom n fp = [] :=
  List.flatMap_eq_nil_iff.2 fun p hp => h p (List.mem_range'_1.1 hp).1 (List.mem_range'_1.1 hp).2

theorem State.planFrom_add (m n fp : Nat) (s : State) :
    s.planFrom (m + n) fp = s.planFrom m fp ++ s.planFrom n (fp + m) := by
  rw [State.planFrom, ← List.range'_append_1, List.flatMap_append, State.planFrom, State.planFrom]

/-- The plan begins with that of the first page that has one. -/
theorem State.flushPlan_of_first {s : State} {q : Nat} (hq : q < s.cfg.pages)
    (h : ∀ p, p < q → s.pagePlan p = []) :
    s.flushPlan = s.pagePlan q ++ s.planFrom (s.cfg.pages - (q + 1)) (q + 1) := by
  have hbefore : s.planFrom q 0 = [] := State.planFrom_eq_nil fun p _ hp => h p (by omega)
  calc s.flushPlan
    _ = s.planFrom (q + (s.cfg.pages - (q + 1) + 1)) 0 := by
      rw [State.flushPlan_eq_planFrom]
      congr 1
      omega
    _ = s.planFrom (s.cfg.pages - (q + 1) + 1) q := by
      rw [State.planFrom_add, hbefore, List.nil_append, Nat.zero_add]
    _ = _ := State.planFrom_succ ..

/-- A FLUSH with something pending makes the first planned transaction, whatever its answer. -/
theorem exec_flush_trace_of_plan {s t : State} {tx : PlannedTx} {plan : List PlannedTx} (hm : s.mode = .gfx)
    (ha : s.att = .attached) (hplan : s.flushPlan = tx :: plan) (hexec : exec .flush s = .next t) :
    ∃ outcome more, t.trace = s.trace ++ tx.event outcome :: more := by
  obtain hok | ⟨j, e, n, hj, hok, herr⟩ := s.answers_cases s.flushPlan.length
  · obtain ⟨t', hexec', -, htrace, -⟩ := flushMakesThePlannedTransactions s hm ha hok
    obtain rfl := Host.Outcome.next.inj (hexec.symm.trans hexec')
    exact ⟨_, _, by rw [htrace, hplan, List.map_cons]⟩
  · obtain ⟨failed, hfailed⟩ : ∃ failed, s.flushPlan[j]? = some failed := ⟨_, List.getElem?_eq_getElem hj⟩
    obtain ⟨t', hexec', -, htrace, -⟩ := flushStopsAtTheFirstError s j failed e n hm ha hfailed hok herr
    obtain rfl := Host.Outcome.next.inj (hexec.symm.trans hexec')
    rw [hplan] at hfailed htrace
    cases j with
    | zero =>
      obtain rfl := Option.some.inj hfailed
      exact ⟨.err e, [], by rw [htrace, List.take_zero, List.map_nil, List.append_nil]⟩
    | succ j =>
      exact ⟨.ok, _, by rw [htrace, List.take_succ_cons, List.map_cons, List.append_assoc, List.cons_append]⟩

/-- Settles O31: the pages before the failed one have nothing pending any more, and it has what it had. -/
theorem retryBeginsAtTheFailedPage : Obligations.RetryBeginsAtTheFailedPage := by
  intro s t u j tx e n hwf hm ha hj hok herr hexec hretry
  obtain ⟨t', hexec', -, -, hbefore, hfailed, hframe⟩ := flushStopsAtTheFirstError s j tx e n hm ha hj hok herr
  obtain rfl := Host.Outcome.next.inj (hexec.symm.trans hexec')
  have hcfg : t.cfg = s.cfg := by rw [hframe]
  have hfb : t.fb = s.fb := by rw [hframe]
  rw [State.flushPlan_eq_planFrom] at hj
  obtain ⟨-, hpage, hmem⟩ := State.mem_planFrom (List.mem_of_getElem? hj)
  have hclean : ∀ p, p < tx.page → t.pagePlan p = [] := by
    intro p hp
    by_cases hplan : s.pagePlan p = []
    · rw [State.pagePlan_congr hcfg hfb ((hbefore p hp).trans (if_neg (not_not.2 hplan))), hplan]
    · exact State.pagePlan_of_clean ((hbefore p hp).trans (if_pos hplan))
  have hsame : t.pagePlan tx.page = s.pagePlan tx.page := State.pagePlan_congr hcfg hfb (hfailed _ (le_refl _))
  obtain ⟨rest, hhead⟩ := State.pagePlan_head (hsame ▸ List.ne_nil_of_mem hmem)
  have hplan := State.flushPlan_of_first (by rw [hcfg]; omega) hclean
  rw [hhead, List.cons_append] at hplan
  exact exec_flush_trace_of_plan (by rw [hframe]; exact hm) (by rw [hframe]; exact ha) hplan hretry

/-! ### One pixel on a clean buffer -/

theorem State.range_of_all_clean {s : State} (h : s.dr = List.replicate s.cfg.pages .clean) (p : Nat) :
    s.range p = .clean := by
  rw [State.range, h, List.getD_eq_getElem?_getD, List.getElem?_replicate]
  split <;> rfl

/-- A pixel that does not have the colour: its byte is not the painted one. -/
theorem State.paint_ne_of_pixel {s : State} {x y : Nat} {color : Color} (h : s.pixel x y ≠ decide (color = .on)) :
    paint (y % 8) color (s.fbRead (y / 8) x) ≠ s.fbRead (y / 8) x := by
  intro hsame
  have hbit := paint_getLsbD (b := y % 8) (Nat.mod_lt y (by decide)) color (s.fbRead (y / 8) x)
  rw [hsame, if_pos rfl] at hbit
  exact h hbit

/-- On a clean buffer a SET_PIXEL that changes its byte leaves that column dirty, and nothing else (R140). -/
theorem State.range_setPixel_of_all_clean {s : State} {x y : Int} {color : Color}
    (hdr : s.dr = List.replicate s.cfg.pages .clean) (hpage : pageOf y < s.cfg.pages)
    (hin : inBounds s.cfg x y = true)
    (hne : paint (rowBit y) color (s.fbRead (pageOf y) (columnOf x)) ≠ s.fbRead (pageOf y) (columnOf x)) (p : Nat) :
    (s.setPixel x y color).range p = if p = pageOf y then .dirty (columnOf x) (columnOf x + 1) else .clean := by
  rw [State.setPixel_of_changed hin hne, State.range_setRange, State.range_of_all_clean hdr, State.fbWrite_dr, hdr,
    List.length_replicate]
  simp only [hpage, and_true]
  exact if_congr Iff.rfl rfl (State.range_of_all_clean hdr p)

/-- SetPage as FLUSH sends it: a page index is not cut (R9, R113). -/
theorem encodeCommand_setPage_pageAddr {p : Nat} (h : p < 16) :
    encodeCommand (.setPage (pageAddr p)) = [BitVec.ofNat 8 (0xB0 + p)] := by
  obtain ⟨-, hbytes, -⟩ := numericCommandBytes (pageAddr p)
  rw [hbytes, pageAddr, BitVec.toNat_ofNat, Nat.mod_mod_of_dvd _ (by decide), Nat.mod_eq_of_lt h]

/-- SetColumn as FLUSH sends it: the offset is added and no column wraps (R9, R114). -/
theorem encodeCommand_setColumn_columnAddr {cfg : DisplaySpecs} {c : Nat} (h : cfg.columnOffset + c < 256) :
    encodeCommand (.setColumn (columnAddr cfg c)) =
      [BitVec.ofNat 8 (0x10 + (cfg.columnOffset + c) / 16), BitVec.ofNat 8 ((cfg.columnOffset + c) % 16)] := by
  rw [setColumnBytes, columnAddr, BitVec.toNat_ofNat, Nat.mod_eq_of_lt h]

/-- The plan where only one column is dirty. -/
theorem State.flushPlan_of_one_column {s : State} {q c : Nat} (hq : q < s.cfg.pages) (hc : c < s.cfg.width)
    (hrange : ∀ p, s.range p = if p = q then .dirty c (c + 1) else .clean) :
    s.flushPlan =
      [⟨q, .command, encodeCommand (.setPage (pageAddr q))⟩,
       ⟨q, .command, encodeCommand (.setColumn (columnAddr s.cfg c))⟩, ⟨q, .data, [s.fbRead q c]⟩] := by
  have hother : ∀ p, p ≠ q → s.pagePlan p = [] := fun p hp =>
    State.pagePlan_of_clean ((hrange p).trans (if_neg hp))
  have hburst : (s.range q).burst s.cfg.width = some (c, c + 1) :=
    DirtyRange.burst_eq_some.2 ⟨(hrange q).trans (if_pos rfl), Nat.lt_succ_self c, hc⟩
  rw [State.flushPlan_of_first hq fun p hp => hother p (Nat.ne_of_lt hp), State.pagePlan_of_burst hburst,
    State.planFrom_eq_nil fun p hp _ => hother p (by omega), List.append_nil, Nat.add_sub_cancel_left]
  rfl

/-- Settles O30: the plan is that of the pixel's page, whose range is the pixel's column. -/
theorem onePixelFlushesOneByte : Obligations.OnePixelFlushesOneByte := by
  intro s t x y color hvalid hm ha hdr hx hy hpixel hexec hok
  obtain ⟨-, -, hheight, hpages, hcols⟩ := hvalid
  have hin : inBounds s.cfg x y = true := by simp [inBounds_iff, hx, hy]
  have hpage : y / 8 < s.cfg.pages := pageOf_lt hheight hin
  obtain rfl := Host.Outcome.next.inj ((exec_setPixel_of_gfx x y color hm).symm.trans hexec)
  have hcfg := s.setPixel_cfg x y color
  have hplan := State.flushPlan_of_one_column (s := (s.setPixel x y color).complete .none) (q := y / 8) (c := x)
    (hcfg ▸ hpage) (hcfg ▸ hx) (State.range_setPixel_of_all_clean hdr hpage hin (State.paint_ne_of_pixel hpixel))
  obtain ⟨u, hflush, hresult, htrace, -⟩ := flushMakesThePlannedTransactions
    ((s.setPixel x y color).complete .none) (by simpa using hm) (by simpa using ha) (by rw [hplan]; exact hok)
  refine ⟨u, hflush, hresult, ?_⟩
  rw [htrace, hplan, State.complete_cfg, hcfg, encodeCommand_setPage_pageAddr (by omega),
    encodeCommand_setColumn_columnAddr (by omega), State.complete_trace, State.setPixel_trace]
  rfl

end Sys2Proof.Machine
end

section
/-! The operations of mode and transport (R160 to R167): what each writes past its guard, and that mode and attach state
move by the transition table only (R166). -/

namespace Sys2Proof.Machine

/-! ### SEND_CMD, DETACH, ATTACH and mode entry -/

/-- Settles O16: past the guard of R160, one transaction and its ending. -/
theorem sendCmdIsOneTransaction : Obligations.SendCmdIsOneTransaction := fun _ c =>
  ⟨rfl,
   fun hm hanswer =>
    congrArg _ ((State.inMode_of_eq _ hm).trans (congrArg finish (State.transact_of_ok _ (encodeCommand c) hanswer))),
   fun _ _ hm hanswer =>
    congrArg _ ((State.inMode_of_eq _ hm).trans (congrArg finish (State.transact_of_err _ (encodeCommand c) hanswer))),
   fun hm => congrArg _ (State.inMode_of_ne _ hm)⟩

/-- Settles O35: past the two guards of R161, and refused by each. -/
theorem detachHandsTheTransportOver : Obligations.DetachHandsTheTransportOver := fun _ =>
  ⟨fun hm ha => congrArg _ ((State.inMode_of_eq _ hm).trans (State.whenAttached_of_attached _ ha)),
   fun hm ha => congrArg _ ((State.inMode_of_eq _ hm).trans (State.whenAttached_of_detached _ ha)),
   fun hm => congrArg _ (State.inMode_of_ne _ hm)⟩

/-- Settles O36: past the two guards of R162, and refused by each. -/
theorem attachTakesTheTransportBack : Obligations.AttachTakesTheTransportBack := fun _ _ =>
  ⟨fun hm ha => congrArg _ ((State.inMode_of_eq _ hm).trans (State.whenDetached_of_detached _ ha)),
   fun hm ha => congrArg _ ((State.inMode_of_eq _ hm).trans (State.whenDetached_of_attached _ ha)),
   fun hm => congrArg _ (State.inMode_of_ne _ hm)⟩

/-- Settles O37: past the guards of R163 and R164, and refused by them. -/
theorem modeEntryChangesTheModeOnly : Obligations.ModeEntryChangesTheModeOnly := fun _ =>
  ⟨fun hm => congrArg _ (State.inMode_of_eq _ hm), fun hm => congrArg _ (State.inMode_of_eq _ hm),
   fun hm => congrArg _ (State.inMode_of_ne _ hm), fun hm => congrArg _ (State.inMode_of_ne _ hm)⟩

/-! ### A list of commands -/

/-- A command as a transaction of a plan; no page is meant. -/
def plannedCommand (c : Command) : PlannedTx := ⟨0, .command, encodeCommand c⟩

theorem map_event_plannedCommand (cs : List Command) :
    (cs.map plannedCommand).map (PlannedTx.event .ok) = commandEvents cs := List.map_map

theorem State.sendCommands_eq_sendPlan (cs : List Command) (s : State) :
    State.sendCommands cs s = State.sendPlan (cs.map plannedCommand) s := by
  induction cs generalizing s with
  | nil => rfl
  | cons c cs ih => exact congrArg (andThen · (s.sendCommand c)) (funext ih)

/-- The frame of transactions that leave the ranges and SENT alone. -/
theorem State.Made.eq_of_quiet {es : List TxEvent} {s t : State} (h : s.Made es t) (q : s.Quiet t) :
    t = { s with trace := s.trace ++ es, sink := t.sink,
                 answers := s.answers.drop es.length, txCount := s.txCount + es.length } := by
  have hframe := h.eq
  rwa [q.dr, q.sent, h.trace] at hframe

/-- The commands are all answered Ok: they are all sent. -/
theorem State.sendCommands_of_ok {cs : List Command} {s : State} (h : s.answersOk cs.length) :
    ∃ k : Sink, State.sendCommands cs s =
      ({ s with trace := s.trace ++ commandEvents cs, sink := k,
                answers := s.answers.drop cs.length, txCount := s.txCount + cs.length }, .ok) := by
  obtain ⟨u, hsend, hmade⟩ := State.sendPlan_of_ok (plan := cs.map plannedCommand) (by rwa [List.length_map])
  have hquiet : s.Quiet u := by simpa only [hsend] using s.sendPlan_quiet (cs.map plannedCommand)
  have hframe := hmade.eq_of_quiet hquiet
  simp only [map_event_plannedCommand, commandEvents, List.length_map] at hframe
  exact ⟨u.sink, by rw [State.sendCommands_eq_sendPlan, hsend]; exact congrArg (·, _) hframe⟩

/-- Command j is the first to fail: it is the last one sent. -/
theorem State.sendCommands_of_err {cs : List Command} {s : State} {j n : Nat} {c : Command} {e : TransportError}
    (hj : cs[j]? = some c) (hok : s.answersOk j) (herr : s.answerAt j = .err e n) :
    ∃ k : Sink, State.sendCommands cs s =
      ({ s with trace := s.trace ++ commandEvents (cs.take j) ++ [⟨.command, encodeCommand c, .err e⟩], sink := k,
                answers := s.answers.drop (j + 1), txCount := s.txCount + (j + 1) }, .err e) := by
  obtain ⟨u, hsend, hmade⟩ := State.sendPlan_of_err (plan := cs.map plannedCommand) (tx := plannedCommand c)
    (by rw [List.getElem?_map, hj]; rfl) hok herr
  have hquiet : s.Quiet u := by simpa only [hsend] using s.sendPlan_quiet (cs.map plannedCommand)
  have hframe := hmade.eq_of_quiet hquiet
  have hlt : j < cs.length := (List.getElem?_eq_some_iff.1 hj).1
  rw [← List.map_take, map_event_plannedCommand, List.length_append, commandEvents, List.length_map, List.length_take,
    Nat.min_eq_left (le_of_lt hlt), List.length_singleton, ← List.append_assoc] at hframe
  exact ⟨u.sink, by rw [State.sendCommands_eq_sendPlan, hsend]; exact congrArg (·, _) hframe⟩

/-! ### RESET_INIT (R167) -/

theorem State.resetInitWith_of_pin_ok {s : State} (cs : List Command) (h : s.pinAnswer = .ok) :
    s.resetInitWith cs = finish (State.sendCommands cs s.pinPhase) := by
  rw [State.resetInitWith, h]

theorem State.resetInitWith_of_pin_err {s : State} {g : GpioError} (cs : List Command) (h : s.pinAnswer = .err g) :
    s.resetInitWith cs = s.pinPhase.raise (.pinError g) := by
  rw [State.resetInitWith, h]

theorem exec_resetInit_of_attached {s : State} (ha : s.att = .attached) :
    exec .resetInit s = .next (s.resetInitWith (Config.initSequence s.cfg)) :=
  congrArg _ (State.whenAttached_of_attached _ ha)

/-- Settles O38: after the pin phase, which uses none of the transport's answers, the whole sequence is sent. -/
theorem resetInitSendsTheSequence : Obligations.ResetInitSendsTheSequence := by
  intro s ha hpin hok
  obtain ⟨k, hsend⟩ := State.sendCommands_of_ok (s := s.pinPhase) hok
  refine ⟨_, exec_resetInit_of_attached ha, ?_⟩
  rw [State.resetInitWith_of_pin_ok _ hpin, hsend, finish_ok]
  exact ⟨rfl, rfl, rfl⟩

/-- Settles O39: the pins fail, or the command that the transport fails ends the list. -/
theorem resetInitStopsAtTheFirstError : Obligations.ResetInitStopsAtTheFirstError := by
  refine fun s cs => ⟨exec_resetInit_of_attached, fun g hpin => State.resetInitWith_of_pin_err cs hpin,
    fun j c e n hpin hj hok herr => ?_, fun ha => congrArg _ (State.whenAttached_of_detached _ ha)⟩
  obtain ⟨k, hsend⟩ := State.sendCommands_of_err (s := s.pinPhase) hj hok herr
  exact ⟨k, by rw [State.resetInitWith_of_pin_ok cs hpin, hsend, finish_err]; rfl⟩

/-! ### Mode and attach state (R166) -/

/-- Settles O41: the operations that move, by mode and attach state; of the others none writes either. -/
theorem modesFollowTheTable : Obligations.ModesFollowTheTable := by
  intro i s hatt
  cases i with
  | enterRaw =>
    obtain ⟨henter, -, hrefused, -⟩ := modeEntryChangesTheModeOnly s
    cases hm : s.mode with
    | uninit =>
      have ha : s.att = .attached := hatt (by simp [hm])
      exact ⟨_, henter hm, by rw [ha]; rfl⟩
    | raw | gfx => exact ⟨_, hrefused (by simp [hm]), congrArg (·, s.att) hm⟩
  | enterGfx =>
    obtain ⟨-, henter, -, hrefused⟩ := modeEntryChangesTheModeOnly s
    cases hm : s.mode with
    | uninit =>
      have ha : s.att = .attached := hatt (by simp [hm])
      exact ⟨_, henter hm, by rw [ha]; rfl⟩
    | raw | gfx => exact ⟨_, hrefused (by simp [hm]), congrArg (·, s.att) hm⟩
  | detach =>
    obtain ⟨hdetach, hdetached, hrefused⟩ := detachHandsTheTransportOver s
    cases hm : s.mode with
    | gfx =>
      cases ha : s.att with
      | attached => exact ⟨_, hdetach hm ha, congrArg (·, Attach.detached) hm⟩
      | detached => exact ⟨_, hdetached hm ha, congrArg₂ Prod.mk hm ha⟩
    | uninit | raw => exact ⟨_, hrefused (by simp [hm]), congrArg (·, s.att) hm⟩
  | attach handle =>
    obtain ⟨hattach, hattached, hrefused⟩ := attachTakesTheTransportBack s handle
    cases hm : s.mode with
    | gfx =>
      cases ha : s.att with
      | detached => exact ⟨_, hattach hm ha, congrArg (·, Attach.attached) hm⟩
      | attached => exact ⟨_, hattached hm ha, congrArg₂ Prod.mk hm ha⟩
    | uninit | raw => exact ⟨_, hrefused (by simp [hm]), congrArg (·, s.att) hm⟩
  | _ =>
    obtain ⟨t, hexec⟩ := exec_answers_next _ s
    obtain ⟨-, -, -, -, -, hkeepAtt, hkeepMode, -⟩ := writersOfEachElement _ s t hexec
    exact ⟨t, hexec, congrArg₂ Prod.mk (hkeepMode nofun nofun) (hkeepAtt nofun nofun).1⟩

end Sys2Proof.Machine
end

section
/-! How operations end: construction checks the configuration (R184), the guards refuse by the table (R190), and an error
leaves the block as it was but for cleaned pages (R186). -/

namespace Sys2Proof.Machine

/-! ### Construction (R184) -/

theorem construct_of_valid {cfg : DisplaySpecs} (hvalid : cfg.valid) : construct cfg = .ok (State.fresh cfg) :=
  if_pos hvalid

theorem construct_of_not_valid {cfg : DisplaySpecs} (hvalid : ¬ cfg.valid) : construct cfg = .error .invalidConfig :=
  if_neg hvalid

theorem Sink.unspecified_column : Sink.unspecified.column = Config.freeColumn 0 :=
  Sink.unspecified.setColumn_column (Config.freeColumn 0)

/-- Settles O49: the configuration decides, and a valid one gives the fresh block. -/
theorem constructionChecksTheConfiguration : Obligations.ConstructionChecksTheConfiguration := by
  refine ⟨fun cfg => construct_of_not_valid, fun cfg hvalid => ⟨State.fresh cfg, construct_of_valid hvalid, ?_⟩,
    construct_of_valid Config.resetSpecs_valid⟩
  exact ⟨rfl, rfl, rfl, rfl, fun _ _ => rfl, fun _ _ => rfl, rfl, Sink.unspecified_column, rfl, rfl⟩

/-! ### Errors (R186) -/

/-- Every range of the second state is as in the first, or clean. -/
def State.OnlyCleans (s t : State) : Prop := ∀ p, t.range p = s.range p ∨ t.range p = .clean

theorem State.OnlyCleans.of_dr_eq {s t : State} (h : t.dr = s.dr) : s.OnlyCleans t :=
  fun p => .inl (by rw [State.range, h, State.range])

theorem State.OnlyCleans.trans {s t u : State} (h : s.OnlyCleans t) (k : t.OnlyCleans u) : s.OnlyCleans u :=
  fun p => (k p).elim (fun hp => hp ▸ h p) .inr

theorem State.onlyCleans_setRange_clean (s : State) (p : Nat) : s.OnlyCleans (s.setRange p .clean) := by
  intro q
  rw [State.range_setRange]
  split
  · exact .inr rfl
  · exact .inl rfl

/-- FLUSH changes ranges only by cleaning pages, whether or not it gets to its end (R143). -/
theorem State.flushFrom_onlyCleans (n fp : Nat) (s : State) : s.OnlyCleans (State.flushFrom n fp s).1 :=
  State.flushFrom_rel (fun _ => .of_dr_eq rfl) (fun _ _ _ => .trans) (fun _ _ _ => .of_dr_eq rfl)
    (fun _ _ _ _ => .of_dr_eq rfl) State.onlyCleans_setRange_clean n fp s

/-- Settles O46: the effects that write the block end in Ok, but for FLUSH, which only cleans ranges. -/
theorem errorsLeaveTheBlock : Obligations.ErrorsLeaveTheBlock := by
  intro i s t e hexec herr
  cases exec_effect hexec with
  | quiet q => exact ⟨q.cfg, q.fb, q.mode, q.att, q.handle, State.OnlyCleans.of_dr_eq q.dr⟩
  | flush =>
    have q := finish_quiet (State.flushFrom s.cfg.pages 0 s)
    have b := State.flushFrom_sameBlock s.cfg.pages 0 s
    exact ⟨q.cfg.trans b.cfg, q.fb.trans b.fb, q.mode.trans b.mode, q.att.trans b.att, q.handle.trans b.handle,
      (State.flushFrom_onlyCleans s.cfg.pages 0 s).trans (.of_dr_eq q.dr)⟩
  | enterRaw | enterGfx | detach | attach | setPixel | markAllDirty => cases herr

/-! ### The table of guards, row by row (R190) -/

section
variable (m : Mode) (a : Attach)

theorem guardTable_sendCmd (c : Command) :
    guardTable (.sendCmd c) m a = if m = .raw then none else some .wrongMode := by cases m <;> rfl

theorem guardTable_setPixel (x y : Int) (color : Color) :
    guardTable (.setPixel x y color) m a = if m = .gfx then none else some .wrongMode := by cases m <;> rfl

theorem guardTable_markAllDirty :
    guardTable .markAllDirty m a = if m = .gfx then none else some .wrongMode := by cases m <;> rfl

theorem guardTable_getSize :
    guardTable .getSize m a = if m = .gfx then none else some .wrongMode := by cases m <;> rfl

theorem guardTable_enterRaw :
    guardTable .enterRaw m a = if m = .uninit then none else some .wrongMode := by cases m <;> rfl

theorem guardTable_enterGfx :
    guardTable .enterGfx m a = if m = .uninit then none else some .wrongMode := by cases m <;> rfl

theorem guardTable_flush : guardTable .flush m a =
    if m = .gfx then if a = .attached then none else some .notAttached else some .wrongMode := by
  cases m <;> cases a <;> rfl

theorem guardTable_detach : guardTable .detach m a =
    if m = .gfx then if a = .attached then none else some .notAttached else some .wrongMode := by
  cases m <;> cases a <;> rfl

theorem guardTable_attach (h : Handle) : guardTable (.attach h) m a =
    if m = .gfx then if a = .detached then none else some .alreadyAttached else some .wrongMode := by
  cases m <;> cases a <;> rfl

theorem guardTable_resetInit :
    guardTable .resetInit m a = if a = .attached then none else some .notAttached := by cases a <;> rfl

end

/-! ### Operations that follow a guard -/

/-- The operation ended in Ok or an error. -/
def State.Answered (t : State) : Prop := ∃ q, t.result = some q ∧ q.notRefused = true

theorem State.complete_answered (v : Value) (s : State) : (s.complete v).Answered := ⟨_, rfl, rfl⟩

theorem State.raise_answered (e : OpError) (s : State) : (s.raise e).Answered := ⟨_, rfl, rfl⟩

theorem finish_answered (r : State × TxOutcome) : (finish r).Answered := by
  obtain ⟨-, hr⟩ | ⟨t, -, hr⟩ := finish_cases r
  · exact hr ▸ State.complete_answered ..
  · exact hr ▸ State.raise_answered ..

theorem State.resetInitWith_answered (cs : List Command) (s : State) : (s.resetInitWith cs).Answered := by
  cases hpin : s.pinAnswer with
  | err g => exact State.resetInitWith_of_pin_err cs hpin ▸ State.raise_answered ..
  | ok => exact State.resetInitWith_of_pin_ok cs hpin ▸ finish_answered _

/-- The second state is the first one refused, if the guard gives a reason, and else an answer. -/
def State.FollowsGuard (s t : State) : Option RefuseReason → Prop
  | some r => t = s.refuse r
  | none => t.Answered

/-- A check admits the operation, which follows the rest of the guard, or refuses it: `State.inMode`, `State.whenAttached`
and `State.whenDetached` are such checks. -/
theorem State.FollowsGuard.ite {p : Prop} [Decidable p] {s t : State} {g : Option RefuseReason} {r : RefuseReason}
    (h : p → s.FollowsGuard t g) : s.FollowsGuard (if p then t else s.refuse r) (if p then g else some r) := by
  split
  · exact h ‹_›
  · exact rfl

/-- Every operation follows the table: its guards are the checks of its row. -/
theorem exec_followsGuard (i : Instr) (s : State) :
    ∃ t, exec i s = .next t ∧ s.FollowsGuard t (guardTable i s.mode s.att) := by
  cases i with
  | sendCmd c => exact ⟨_, rfl, guardTable_sendCmd .. ▸ .ite fun _ => finish_answered _⟩
  | setPixel x y color => exact ⟨_, rfl, guardTable_setPixel .. ▸ .ite fun _ => State.complete_answered ..⟩
  | markAllDirty => exact ⟨_, rfl, guardTable_markAllDirty .. ▸ .ite fun _ => State.complete_answered ..⟩
  | getSize => exact ⟨_, rfl, guardTable_getSize .. ▸ .ite fun _ => State.complete_answered ..⟩
  | enterRaw => exact ⟨_, rfl, guardTable_enterRaw .. ▸ .ite fun _ => State.complete_answered ..⟩
  | enterGfx => exact ⟨_, rfl, guardTable_enterGfx .. ▸ .ite fun _ => State.complete_answered ..⟩
  | flush => exact ⟨_, rfl, guardTable_flush .. ▸ .ite fun _ => .ite fun _ => finish_answered _⟩
  | detach => exact ⟨_, rfl, guardTable_detach .. ▸ .ite fun _ => .ite fun _ => State.complete_answered ..⟩
  | attach handle => exact ⟨_, rfl, guardTable_attach .. ▸ .ite fun _ => .ite fun _ => State.complete_answered ..⟩
  | resetInit => exact ⟨_, rfl, guardTable_resetInit .. ▸ .ite fun _ => State.resetInitWith_answered ..⟩
  | _ =>
    -- the fifteen command rows have no guard (R110)
    exact ⟨_, rfl, State.complete_answered ..⟩

/-- Settles O40: the table's entry is the guard that the operation follows. -/
theorem guardsFollowTheTable : Obligations.GuardsFollowTheTable := by
  intro i s
  obtain ⟨t, hexec, hguard⟩ := exec_followsGuard i s
  cases hentry : guardTable i s.mode s.att with
  | some r =>
    rw [hentry] at hguard
    exact hexec.trans (congrArg _ hguard)
  | none =>
    rw [hentry] at hguard
    obtain ⟨q, hresult, hq⟩ := hguard
    exact ⟨t, q, hexec, hresult, hq⟩

end Sys2Proof.Machine
end

section
/-! What a FLUSH sends and costs (R203, R214, R215): what its plan is where every range is full-width, and how long a plan
is, in transactions and in bytes. -/

namespace Sys2Proof.Machine

/-! ### Every range full-width (R203) -/

theorem State.fbRead_of_nothing_drawn {s : State} (h : s.fb = []) (p c : Nat) : s.fbRead p c = 0x00 := by
  rw [State.fbRead, h]
  rfl

/-- The transactions of a page that is sent in full. -/
def State.fullPageEvents (s : State) (p : Nat) : List TxEvent :=
  [⟨.command, [BitVec.ofNat 8 (0xB0 + p)], .ok⟩,
   ⟨.command, [BitVec.ofNat 8 (0x10 + s.cfg.columnOffset / 16), BitVec.ofNat 8 (s.cfg.columnOffset % 16)], .ok⟩,
   ⟨.data, (List.range s.cfg.width).map (fun c => s.fbRead p c), .ok⟩]

theorem State.pagePlan_events_of_all_full {s : State} {p : Nat} (hvalid : s.cfg.valid)
    (hdr : s.dr = List.replicate s.cfg.pages (fullRange s.cfg)) (hp : p < s.cfg.pages) :
    (s.pagePlan p).map (PlannedTx.event .ok) = s.fullPageEvents p := by
  obtain ⟨hwidth, -, -, hpages, hcols⟩ := hvalid
  have hburst : (s.range p).burst s.cfg.width = some (0, s.cfg.width) :=
    DirtyRange.burst_eq_some.2 ⟨State.range_of_all_full hdr hp, by omega, le_refl _⟩
  have hrun : s.fbRun p 0 s.cfg.width = (List.range s.cfg.width).map fun c => s.fbRead p c := by
    simp only [State.fbRun, Nat.zero_add]
  rw [State.pagePlan_of_burst hburst, encodeCommand_setPage_pageAddr (by omega),
    encodeCommand_setColumn_columnAddr (by omega), Nat.sub_zero, hrun]
  rfl

theorem State.flushPlan_events_of_all_full {s : State} (hvalid : s.cfg.valid)
    (hdr : s.dr = List.replicate s.cfg.pages (fullRange s.cfg)) :
    s.flushPlan.map (PlannedTx.event .ok) = (List.range s.cfg.pages).flatMap s.fullPageEvents := by
  rw [State.flushPlan, List.map_flatMap]
  exact List.flatMap_congr fun p hp => State.pagePlan_events_of_all_full hvalid hdr (List.mem_range.1 hp)

/-! ### How many transactions (R215) -/

theorem State.pagePlan_length_le (s : State) (p : Nat) : (s.pagePlan p).length ≤ 3 := by
  cases hburst : (s.range p).burst s.cfg.width with
  | none => simp [State.pagePlan_of_none hburst]
  | some range => simp [State.pagePlan_of_burst hburst]

theorem State.flushPlan_length_le (s : State) : s.flushPlan.length ≤ 3 * s.cfg.pages := by
  rw [State.flushPlan, List.length_flatMap]
  calc ((List.range s.cfg.pages).map fun p => (s.pagePlan p).length).sum
    _ ≤ ((List.range s.cfg.pages).map fun p => (s.pagePlan p).length).length • 3 :=
      List.sum_le_card_nsmul _ 3 fun n hn => by
        obtain ⟨p, -, rfl⟩ := List.mem_map.1 hn
        exact s.pagePlan_length_le p
    _ = 3 * s.cfg.pages := by rw [List.length_map, List.length_range, smul_eq_mul, Nat.mul_comm]

/-- Settles O29: three answers a page are enough for the plan, and that is every page in full. -/
theorem firstFlushSendsEveryPage : Obligations.FirstFlushSendsEveryPage := by
  intro s hvalid hm ha hdr hok
  obtain ⟨t, hexec, hresult, htrace, -⟩ :=
    flushMakesThePlannedTransactions s hm ha (hok.of_le s.flushPlan_length_le)
  rw [State.flushPlan_events_of_all_full hvalid hdr] at htrace
  refine ⟨t, hexec, hresult, htrace, fun hfb => htrace.trans (congrArg _ (List.flatMap_congr fun p _ => ?_))⟩
  simp only [State.fullPageEvents, State.fbRead_of_nothing_drawn hfb, List.map_const', List.length_range]

/-! ### How many bytes (R214) -/

/-- The bytes that a page with this range costs: SetPage, the two of SetColumn, and its burst. -/
def DirtyRange.cost : DirtyRange → Nat
  | .clean => 0
  | .dirty start stop => 3 + (stop - start)

theorem State.pagePlan_bytes {s : State} {p : Nat} (hwf : (s.range p).wf s.cfg.width = true) :
    ((s.pagePlan p).map fun tx => tx.bytes.length).sum = (s.range p).cost := by
  cases hrange : s.range p with
  | clean => rw [State.pagePlan_of_clean hrange]; rfl
  | dirty start stop =>
    obtain ⟨hlt, hle⟩ := (DirtyRange.wf_dirty ..).1 (hrange ▸ hwf)
    rw [State.pagePlan_of_burst (DirtyRange.burst_eq_some.2 ⟨hrange, hlt, hle⟩)]
    show 1 + (2 + ((s.fbRun p start (stop - start)).length + 0)) = 3 + (stop - start)
    rw [State.fbRun_length]
    omega

theorem State.flushPlan_bytes {s : State} (hwf : s.rangesWf) :
    (s.flushPlan.map fun tx => tx.bytes.length).sum =
      ((List.range s.cfg.pages).map fun p => (s.range p).cost).sum := by
  rw [State.flushPlan, List.map_flatMap, List.flatMap_def, List.sum_flatten, List.map_map]
  exact congrArg List.sum (List.map_congr_left fun p _ => State.pagePlan_bytes (hwf.range_wf p))

theorem State.cost_of_all_full {s : State} (hdr : s.dr = List.replicate s.cfg.pages (fullRange s.cfg)) :
    ((List.range s.cfg.pages).map fun p => (s.range p).cost).sum = s.cfg.pages * (3 + s.cfg.width) := by
  have hfull : ∀ p ∈ List.range s.cfg.pages, (s.range p).cost = 3 + s.cfg.width := fun p hp =>
    congrArg DirtyRange.cost (State.range_of_all_full hdr (List.mem_range.1 hp))
  rw [List.map_congr_left hfull, List.map_const', List.sum_replicate, List.length_range, smul_eq_mul]

/-! ### What a FLUSH makes of its plan -/

/-- A FLUSH adds these events and counts each; they are no more than it planned, and what it planned if it answers Ok. -/
structure State.FlushAdded (es : List TxEvent) (s t : State) : Prop where
  trace : t.trace = s.trace ++ es
  txCount : t.txCount = s.txCount + es.length
  length_le : es.length ≤ s.flushPlan.length
  of_ok : t.result = some (.ok .none) → es = s.flushPlan.map (PlannedTx.event .ok)

theorem exec_flush_refused_or_attached {s t : State} (hexec : exec .flush s = .next t) :
    (∃ r, t = s.refuse r) ∨ (s.mode = .gfx ∧ s.att = .attached) := by
  obtain ⟨u, hexec', hguard⟩ := exec_followsGuard .flush s
  obtain rfl := Host.Outcome.next.inj (hexec.symm.trans hexec')
  rw [guardTable_flush] at hguard
  split_ifs at hguard with hm ha
  · exact .inr ⟨hm, ha⟩
  · exact .inl ⟨_, hguard⟩
  · exact .inl ⟨_, hguard⟩

/-- A refused FLUSH makes nothing, one whose transactions are all answered Ok its plan, and any other its plan up to the
first error. -/
theorem exec_flush_added {s t : State} (hexec : exec .flush s = .next t) : ∃ es, s.FlushAdded es t := by
  obtain ⟨r, rfl⟩ | ⟨hm, ha⟩ := exec_flush_refused_or_attached hexec
  · exact ⟨[], by simp, rfl, Nat.zero_le _, nofun⟩
  obtain hok | ⟨j, e, n, hj, hok, herr⟩ := s.answers_cases s.flushPlan.length
  · obtain ⟨t', hexec', -, htrace, -, -, hframe⟩ := flushMakesThePlannedTransactions s hm ha hok
    obtain rfl := Host.Outcome.next.inj (hexec.symm.trans hexec')
    exact ⟨_, htrace, by rw [hframe, List.length_map], by rw [List.length_map], fun _ => rfl⟩
  · obtain ⟨t', hexec', hresult, htrace, -, -, hframe⟩ :=
      flushStopsAtTheFirstError s j _ e n hm ha (List.getElem?_eq_getElem hj) hok herr
    obtain rfl := Host.Outcome.next.inj (hexec.symm.trans hexec')
    have hlength : ((s.flushPlan.take j).map (PlannedTx.event .ok) ++
        [s.flushPlan[j].event (.err e)]).length = j + 1 := by
      rw [List.length_append, List.length_map, List.length_take_of_le (le_of_lt hj), List.length_singleton]
    rw [List.append_assoc] at htrace
    exact ⟨_, htrace, by rw [hframe, hlength], hlength ▸ hj, fun h => nomatch hresult.symm.trans h⟩

/-- Settles O32: the plan bounds what is made, and is what is made if the FLUSH answers Ok. -/
theorem flushCost : Obligations.FlushCost := by
  intro s t hexec
  obtain ⟨es, htrace, hcount, hlength, hplan⟩ := exec_flush_added hexec
  have hbytes : s.rangesWf → t.result = some (.ok .none) →
      (es.map fun e => e.bytes.length).sum = ((List.range s.cfg.pages).map fun p => (s.range p).cost).sum := by
    intro hwf hok
    rw [hplan hok, List.map_map, ← State.flushPlan_bytes hwf]
    rfl
  exact ⟨es, htrace, hlength.trans s.flushPlan_length_le, hcount, hbytes,
    fun hwf hok hdr => (hbytes hwf hok).trans (State.cost_of_all_full hdr)⟩

end Sys2Proof.Machine
end

section
/-! Decode after encode: every well-formed instruction is read back from its bytes, and so are the words of the opcode
table that are the bytes of one. -/

namespace Sys2Proof

/-! ### Command rows -/

/-- A parameter that fits its field loses nothing to the remainder (R83). -/
theorem ofNat_mod_of_fits {w : Nat} {p : Byte} (h : fits w p = true) : BitVec.ofNat 8 (p.toNat % 2 ^ w) = p := by
  rw [Nat.mod_eq_of_lt (of_decide_eq_true h), BitVec.ofNat_toNat, BitVec.setWidth_eq]

/-- The parameters of a well-formed row are kept whole (R82, R83). -/
theorem Command.kept_of_wf {c : Command} (h : (Instr.ofCommand c).wf = true) : c.kept = c := by
  cases c with
  | setStartLine addr => exact congrArg Command.setStartLine (ofNat_mod_of_fits h)
  | setPage addr => exact congrArg Command.setPage (ofNat_mod_of_fits h)
  | setVoltageRegulatorRatio ratio => exact congrArg Command.setVoltageRegulatorRatio (ofNat_mod_of_fits h)
  | setElectronicVolume value => exact congrArg Command.setElectronicVolume (ofNat_mod_of_fits h)
  | _ => rfl

/-- A command row is its command's bytes on the port (R82). -/
theorem encode_ofCommand (c : Command) : encode (.ofCommand c) = encodeCommand c := by
  cases c with
  | setStaticIndicator mode => cases mode <;> rfl
  | _ => rfl

theorem decode_encode_ofCommand {c : Command} (h : (Instr.ofCommand c).wf = true) :
    decode (encode (.ofCommand c)) = .ok (.ofCommand c, []) := by
  rw [encode_ofCommand, decode_encodeCommand, Command.kept_of_wf h]

theorem Instr.ofCommand_of_toCommand {i : Instr} {c : Command} (h : i.toCommand = some c) : i = .ofCommand c := by
  cases i <;> cases h <;> rfl

/-! ### Operands of the host operations -/

theorem boolOf_bitOf (b : Bool) : boolOf (bitOf b) = some b := by
  cases b <;> rfl

/-- The tag and the parameter byte of SEND_CMD carry the command whole (notes/assumptions/2.md). -/
theorem commandOf_tag_param (c : Command) : commandOf (commandTag c) (commandParam c) = some c := by
  cases c with
  | displayOnOff b | adcSelect b | setNormalReverse b | setAllPointsOn b | setLcdBias b | setCommonOutputMode b =>
    exact congrArg (Option.map _) (boolOf_bitOf b)
  | setPowerControl b r f => cases b <;> cases r <;> cases f <;> rfl
  | setStaticIndicator mode => rcases mode with _ | ⟨⟨⟩⟩ <;> rfl
  | setBoosterRatio ratio => cases ratio <;> rfl
  | _ => rfl

/-- The two bytes of a coordinate, put together, are its 16 bits. -/
theorem extractLsb'_bytes_append (v : BitVec 16) : v.extractLsb' 8 8 ++ v.extractLsb' 0 8 = v :=
  (BitVec.extractLsb'_append_extractLsb'_eq_extractLsb' (start₁ := 0) (len₁ := 8) rfl).trans BitVec.extractLsb'_eq_self

/-- Sign extension undoes two's complement for a coordinate that fits (R11, R93). -/
theorem coordOf_bytes {x : Int} (h : coordFits x = true) :
    coordOf ((BitVec.ofInt coordBits x).extractLsb' 8 8) ((BitVec.ofInt coordBits x).extractLsb' 0 8) = x := by
  obtain ⟨hlow, hhigh⟩ : -2 ^ 15 ≤ x ∧ x < 2 ^ 15 := by simpa [coordFits] using h
  rw [coordOf, extractLsb'_bytes_append, BitVec.toInt_ofInt]
  exact Int.bmod_eq_of_le hlow hhigh

theorem colorOf_colorBit (color : Color) : colorOf (colorBit color) = some color := by
  cases color <;> rfl

theorem decode_encode_sendCmd (c : Command) : decode (encode (.sendCmd c)) = .ok (.sendCmd c, []) := by
  show decodeSendCmd [commandTag c, commandParam c] = _
  rw [decodeSendCmd, commandOf_tag_param]

theorem decode_encode_setPixel {x y : Int} {color : Color} (hx : coordFits x = true) (hy : coordFits y = true) :
    decode (encode (.setPixel x y color)) = .ok (.setPixel x y color, []) := by
  show decodeSetPixel (coordBytes x ++ coordBytes y ++ [colorBit color]) = _
  simp only [coordBytes, List.cons_append, List.nil_append, decodeSetPixel, colorOf_colorBit, coordOf_bytes hx,
    coordOf_bytes hy]

/-! ### Every instruction -/

theorem decode_encode {i : Instr} (h : i.wf = true) : decode (encode i) = .ok (i, []) := by
  cases hrow : i.toCommand with
  | some c =>
    obtain rfl := Instr.ofCommand_of_toCommand hrow
    exact decode_encode_ofCommand h
  | none =>
    cases i with
    | sendCmd c => exact decode_encode_sendCmd c
    | setPixel x y color =>
      obtain ⟨hx, hy⟩ := Bool.and_eq_true_iff.1 h
      exact decode_encode_setPixel hx hy
    | flush | markAllDirty | detach | attach | getSize | enterRaw | enterGfx | resetInit => rfl
    | _ => cases hrow

/-- Settles O9: an instruction is read back from its own bytes, and the decoder does not look at those after them. -/
theorem decodeOfEncode : Obligations.DecodeOfEncode := fun _ rest h =>
  decode_append_of_ok (decode_encode h) rest

/-! ### Words of the opcode table -/

/-- A word whose bytes are those of a well-formed instruction and the padding names it (notes/assumptions/10.md). -/
theorem decodeTableWord_of_encode {nbits w : Nat} {i : Instr} (pad : List Byte)
    (hbytes : tableBytes nbits w = encode i ++ pad) (h : i.wf = true) : decodeTableWord nbits w = some i := by
  rw [decodeTableWord, hbytes, decodeOfEncode i pad h]

theorem decodeTableWord_of_error {nbits w : Nat} {r : Reject} (h : decode (tableBytes nbits w) = .error r) :
    decodeTableWord nbits w = none := by
  rw [decodeTableWord, h]

/-- Settles O12: nine words are an instruction's bytes and zeros; of the others, one has a second byte that is no booster
ratio (R85), and one is a reserved selector (R92). -/
theorem tableWordsDecode : Obligations.TableWordsDecode := by
  have hone {w : Nat} {i : Instr} (hbytes : tableBytes 8 w = encode i ++ List.replicate 5 0) (h : i.wf = true) :
      decodeTableWord 8 w = some i :=
    decodeTableWord_of_encode _ hbytes h
  have htwo {w : Nat} {i : Instr} (hbytes : tableBytes 16 w = encode i ++ List.replicate 4 0) (h : i.wf = true) :
      decodeTableWord 16 w = some i :=
    decodeTableWord_of_encode _ hbytes h
  have hbooster : decodeTableWord 16 0xF802 = none := decodeTableWord_of_error (r := .badOperand 0x02) rfl
  have hreserved : decodeTableWord 8 0xB = none :=
    decodeTableWord_of_error ((reservedSelectorsAreRejected 0xB 0xB _).2 ⟨rfl, by decide⟩)
  exact ⟨hone rfl rfl, hone rfl rfl, hone rfl rfl, htwo rfl rfl, htwo rfl rfl, htwo rfl rfl, htwo rfl rfl, hbooster,
    hone rfl rfl, hone rfl rfl, hreserved⟩

end Sys2Proof
end
